-- ==== Sys2Proof/Word.lean ====
section
/-! DEFINITION. The machine's data widths (spec/00_scope.md R6, R8; spec/10_state.md R21 to R30).
All quantities are unsigned (R6, R122(a)). -/

namespace Sys2Proof

/-- An 8-bit value: a register, a timer, a memory cell, an immediate `nn`. -/
abbrev Byte := BitVec 8

/-- A 16-bit value: an opcode, `pc`, `I`, a stack entry. -/
abbrev Word := BitVec 16

/-- A 12-bit address immediate `nnn` (R8). -/
abbrev Addr := BitVec 12

/-- "a 4-bit half-byte" (R12): a key value (R30), or four opcode bits that name no operand (R65). -/
abbrev Nibble := BitVec 4

/-- The number of a general register, V0 to VF (R21). -/
abbrev RegIdx := Fin 16

/-- A sprite height, 0 to 15 rows (R67). -/
abbrev RowCount := Fin 16

/-- The number of VF, the flag register (R22). -/
abbrev vF : RegIdx := 15

end Sys2Proof
end

