-- ==== Sys2Proof/Syntax.lean ====
section
/-! DEFINITION. The 34 instructions of spec/30_encoding.md R64, one constructor per row of
spec/opcode_table.json, each carrying its extracted operands (R63).
Where R65 says that four opcode bits are neither matched nor used, the constructor carries them as
`ign`, so that an instruction determines its 16-bit opcode: the fault record keeps the opcode (R32)
and `Bnnn` computes from it (R107). See log 9 and log 10. -/

namespace Sys2Proof

inductive Instr where
  /-- `00E0` CLS (R140); `ign` is bits 11-8 (R65(b)). -/
  | cls (ign : Nibble)
  /-- `00EE` RET (R100); `ign` is bits 11-8 (R65(b)). -/
  | ret (ign : Nibble)
  /-- `1nnn` JP nnn (R101). -/
  | jp (nnn : Addr)
  /-- `2nnn` CALL nnn (R102). -/
  | call (nnn : Addr)
  /-- `3xnn` SE Vx, nn (R103). -/
  | seImm (x : RegIdx) (nn : Byte)
  /-- `4xnn` SNE Vx, nn (R104). -/
  | sneImm (x : RegIdx) (nn : Byte)
  /-- `5xy0` SE Vx, Vy (R105); `ign` is bits 3-0 (R65(a)). -/
  | seReg (x y : RegIdx) (ign : Nibble)
  /-- `6xnn` LD Vx, nn (R110). -/
  | ldImm (x : RegIdx) (nn : Byte)
  /-- `7xnn` ADD Vx, nn (R111). -/
  | addImm (x : RegIdx) (nn : Byte)
  /-- `8xy0` LD Vx, Vy (R112). -/
  | ldReg (x y : RegIdx)
  /-- `8xy1` OR Vx, Vy (R113). -/
  | orReg (x y : RegIdx)
  /-- `8xy2` AND Vx, Vy (R114). -/
  | andReg (x y : RegIdx)
  /-- `8xy3` XOR Vx, Vy (R115). -/
  | xorReg (x y : RegIdx)
  /-- `8xy4` ADD Vx, Vy (R116). -/
  | addReg (x y : RegIdx)
  /-- `8xy5` SUB Vx, Vy (R117). -/
  | subReg (x y : RegIdx)
  /-- `8xy6` SHR Vx (R118); `y` is used only if SHIFT_USES_VY. -/
  | shr (x y : RegIdx)
  /-- `8xy7` SUBN Vx, Vy (R119). -/
  | subnReg (x y : RegIdx)
  /-- `8xyE` SHL Vx (R120); `y` is used only if SHIFT_USES_VY. -/
  | shl (x y : RegIdx)
  /-- `9xy0` SNE Vx, Vy (R106); `ign` is bits 3-0 (R65(a)). -/
  | sneReg (x y : RegIdx) (ign : Nibble)
  /-- `Annn` LD I, nnn (R130). -/
  | ldI (nnn : Addr)
  /-- `Bnnn` JP V0, nnn (R107). -/
  | jpV0 (nnn : Addr)
  /-- `Cxnn` RND Vx, nn (R121). -/
  | rnd (x : RegIdx) (nn : Byte)
  /-- `Dxyn` DRW Vx, Vy, n (R141). -/
  | drw (x y : RegIdx) (n : RowCount)
  /-- `Ex9E` SKP Vx (R150). -/
  | skp (x : RegIdx)
  /-- `ExA1` SKNP Vx (R151). -/
  | sknp (x : RegIdx)
  /-- `Fx07` LD Vx, DT (R152). -/
  | ldFromDt (x : RegIdx)
  /-- `Fx0A` LD Vx, K (R153). -/
  | ldKey (x : RegIdx)
  /-- `Fx15` LD DT, Vx (R154). -/
  | ldDt (x : RegIdx)
  /-- `Fx18` LD ST, Vx (R155). -/
  | ldSt (x : RegIdx)
  /-- `Fx1E` ADD I, Vx (R131). -/
  | addI (x : RegIdx)
  /-- `Fx29` LD F, Vx (R132). -/
  | ldFont (x : RegIdx)
  /-- `Fx33` LD B, Vx (R133). -/
  | ldBcd (x : RegIdx)
  /-- `Fx55` LD [I], Vx (R134). -/
  | dumpRegs (x : RegIdx)
  /-- `Fx65` LD Vx, [I] (R135). -/
  | loadRegs (x : RegIdx)
  deriving DecidableEq, Repr

end Sys2Proof
end

