-- ==== Sys2Proof/WellFormed.lean ====
section
/-! DEFINITION. Well-formed instructions: the canonical spellings of spec/30_encoding.md R65, the
ones an assembler emits. The operand types already bound every operand (R67), so the ignored bits are
all that is left to check. The machine decodes and executes the other spellings too (R65, U6). -/

namespace Sys2Proof

/-- The instruction is spelled canonically: its ignored bits, if it has any, are 0 (R65(a), (b)). -/
def Instr.wellFormed : Instr → Bool
  | .cls ign => ign == 0
  | .ret ign => ign == 0
  | .seReg _ _ ign => ign == 0
  | .sneReg _ _ ign => ign == 0
  | .jp _ | .call _ | .seImm _ _ | .sneImm _ _ | .ldImm _ _ | .addImm _ _
  | .ldReg _ _ | .orReg _ _ | .andReg _ _ | .xorReg _ _ | .addReg _ _ | .subReg _ _
  | .shr _ _ | .subnReg _ _ | .shl _ _ | .ldI _ | .jpV0 _ | .rnd _ _ | .drw _ _ _
  | .skp _ | .sknp _ | .ldFromDt _ | .ldKey _ | .ldDt _ | .ldSt _ | .addI _ | .ldFont _
  | .ldBcd _ | .dumpRegs _ | .loadRegs _ => true

end Sys2Proof
end

