-- ==== Sys2Proof/Decode.lean ====
section
/-! DEFINITION. Decoding (spec/30_encoding.md R60 to R67) and the encoder written from the same
table. Decoding is total, depends on the bytes alone (R71) and rejects by name (R66). -/

namespace Sys2Proof

/-! ### Fields of the opcode (R8, R61) -/

/-- A nibble read as a number 0 to 15. -/
def nibbleIdx (b : Nibble) : Fin 16 := ⟨b.toNat, b.isLt⟩

/-- A number 0 to 15 as four bits. -/
def idxNibble (i : Fin 16) : Nibble := BitVec.ofNat 4 i.val

/-- Bits 15-12, which select the group (R63). -/
def fieldGroup (op : Word) : Nibble := op.extractLsb' 12 4

/-- Bits 11-8. -/
def fieldX (op : Word) : Nibble := op.extractLsb' 8 4

/-- Bits 7-4. -/
def fieldY (op : Word) : Nibble := op.extractLsb' 4 4

/-- Bits 3-0. -/
def fieldN (op : Word) : Nibble := op.extractLsb' 0 4

/-- Bits 7-0. -/
def fieldNn (op : Word) : Byte := op.extractLsb' 0 8

/-- Bits 11-0. -/
def fieldNnn (op : Word) : Addr := op.extractLsb' 0 12

/-- The opcode of two consecutive bytes, high byte first (R43, R60). -/
def wordOfBytes (hi lo : Byte) : Word := hi ++ lo

/-- Bits 15-8 of the opcode, the byte at the lower address (R43). -/
def highByte (op : Word) : Byte := op.extractLsb' 8 8

/-- Bits 7-0 of the opcode, the byte at the higher address (R43). -/
def lowByte (op : Word) : Byte := op.extractLsb' 0 8

/-! ### Decoding -/

/-- Why bytes name no instruction (R66): the group whose second-level key has no entry, or too few
bytes for the one length there is (R60). -/
inductive Reject where
  | truncated
  | unknownGroup0 (op : Word)
  | unknownGroup8 (op : Word)
  | unknownGroupE (op : Word)
  | unknownGroupF (op : Word)
  deriving DecidableEq, Repr

/-- Group 0x0, by the low byte; bits 11-8 are ignored (R63, R65(b)). -/
def decodeGroup0 (op : Word) : Except Reject Instr :=
  match (fieldNn op).toNat with
  | 0xE0 => .ok (.cls (fieldX op))
  | 0xEE => .ok (.ret (fieldX op))
  | _ => .error (.unknownGroup0 op)

/-- Group 0x8, by the low nibble (R63). -/
def decodeGroup8 (op : Word) : Except Reject Instr :=
  let x := nibbleIdx (fieldX op)
  let y := nibbleIdx (fieldY op)
  match (fieldN op).toNat with
  | 0x0 => .ok (.ldReg x y)
  | 0x1 => .ok (.orReg x y)
  | 0x2 => .ok (.andReg x y)
  | 0x3 => .ok (.xorReg x y)
  | 0x4 => .ok (.addReg x y)
  | 0x5 => .ok (.subReg x y)
  | 0x6 => .ok (.shr x y)
  | 0x7 => .ok (.subnReg x y)
  | 0xE => .ok (.shl x y)
  | _ => .error (.unknownGroup8 op)

/-- Group 0xE, by the low byte (R63). -/
def decodeGroupE (op : Word) : Except Reject Instr :=
  match (fieldNn op).toNat with
  | 0x9E => .ok (.skp (nibbleIdx (fieldX op)))
  | 0xA1 => .ok (.sknp (nibbleIdx (fieldX op)))
  | _ => .error (.unknownGroupE op)

/-- Group 0xF, by the low byte (R63). -/
def decodeGroupF (op : Word) : Except Reject Instr :=
  let x := nibbleIdx (fieldX op)
  match (fieldNn op).toNat with
  | 0x07 => .ok (.ldFromDt x)
  | 0x0A => .ok (.ldKey x)
  | 0x15 => .ok (.ldDt x)
  | 0x18 => .ok (.ldSt x)
  | 0x1E => .ok (.addI x)
  | 0x29 => .ok (.ldFont x)
  | 0x33 => .ok (.ldBcd x)
  | 0x55 => .ok (.dumpRegs x)
  | 0x65 => .ok (.loadRegs x)
  | _ => .error (.unknownGroupF op)

/-- Decode one opcode: by the top nibble into 16 groups, four of which dispatch further (R63, R64).
The patterns the source does not print are PRESUMED (log 4). -/
def decodeWord (op : Word) : Except Reject Instr :=
  let x := nibbleIdx (fieldX op)
  let y := nibbleIdx (fieldY op)
  match (fieldGroup op).toNat with
  | 0x0 => decodeGroup0 op
  | 0x1 => .ok (.jp (fieldNnn op))
  | 0x2 => .ok (.call (fieldNnn op))
  | 0x3 => .ok (.seImm x (fieldNn op))
  | 0x4 => .ok (.sneImm x (fieldNn op))
  | 0x5 => .ok (.seReg x y (fieldN op))
  | 0x6 => .ok (.ldImm x (fieldNn op))
  | 0x7 => .ok (.addImm x (fieldNn op))
  | 0x8 => decodeGroup8 op
  | 0x9 => .ok (.sneReg x y (fieldN op))
  | 0xA => .ok (.ldI (fieldNnn op))
  | 0xB => .ok (.jpV0 (fieldNnn op))
  | 0xC => .ok (.rnd x (fieldNn op))
  | 0xD => .ok (.drw x y (nibbleIdx (fieldN op)))
  | 0xE => decodeGroupE op
  | _ => decodeGroupF op

/-- Decode the instruction at the head of any byte sequence, high byte first, and give the bytes
after it (R43, R60). -/
def decodeBytes : List Byte → Except Reject (Instr × List Byte)
  | hi :: lo :: rest =>
    match decodeWord (wordOfBytes hi lo) with
    | .ok i => .ok (i, rest)
    | .error r => .error r
  | _ => .error .truncated

/-! ### Encoding -/

/-- An opcode of a group and three nibbles (R61). -/
def ofNibbles (g : Nibble) (x y n : Nibble) : Word := g ++ x ++ y ++ n

/-- An opcode of a group, a register and a byte: formats XNN, X and FIXED (R62). -/
def ofXnn (g : Nibble) (x : Nibble) (nn : Byte) : Word := g ++ x ++ nn

/-- An opcode of a group and an address: format NNN (R62). -/
def ofNnn (g : Nibble) (nnn : Addr) : Word := g ++ nnn

/-- The opcode of an instruction, from the table of R64. -/
def encode : Instr → Word
  | .cls ign => ofXnn 0x0 ign 0xE0
  | .ret ign => ofXnn 0x0 ign 0xEE
  | .jp nnn => ofNnn 0x1 nnn
  | .call nnn => ofNnn 0x2 nnn
  | .seImm x nn => ofXnn 0x3 (idxNibble x) nn
  | .sneImm x nn => ofXnn 0x4 (idxNibble x) nn
  | .seReg x y ign => ofNibbles 0x5 (idxNibble x) (idxNibble y) ign
  | .ldImm x nn => ofXnn 0x6 (idxNibble x) nn
  | .addImm x nn => ofXnn 0x7 (idxNibble x) nn
  | .ldReg x y => ofNibbles 0x8 (idxNibble x) (idxNibble y) 0x0
  | .orReg x y => ofNibbles 0x8 (idxNibble x) (idxNibble y) 0x1
  | .andReg x y => ofNibbles 0x8 (idxNibble x) (idxNibble y) 0x2
  | .xorReg x y => ofNibbles 0x8 (idxNibble x) (idxNibble y) 0x3
  | .addReg x y => ofNibbles 0x8 (idxNibble x) (idxNibble y) 0x4
  | .subReg x y => ofNibbles 0x8 (idxNibble x) (idxNibble y) 0x5
  | .shr x y => ofNibbles 0x8 (idxNibble x) (idxNibble y) 0x6
  | .subnReg x y => ofNibbles 0x8 (idxNibble x) (idxNibble y) 0x7
  | .shl x y => ofNibbles 0x8 (idxNibble x) (idxNibble y) 0xE
  | .sneReg x y ign => ofNibbles 0x9 (idxNibble x) (idxNibble y) ign
  | .ldI nnn => ofNnn 0xA nnn
  | .jpV0 nnn => ofNnn 0xB nnn
  | .rnd x nn => ofXnn 0xC (idxNibble x) nn
  | .drw x y n => ofNibbles 0xD (idxNibble x) (idxNibble y) (idxNibble n)
  | .skp x => ofXnn 0xE (idxNibble x) 0x9E
  | .sknp x => ofXnn 0xE (idxNibble x) 0xA1
  | .ldFromDt x => ofXnn 0xF (idxNibble x) 0x07
  | .ldKey x => ofXnn 0xF (idxNibble x) 0x0A
  | .ldDt x => ofXnn 0xF (idxNibble x) 0x15
  | .ldSt x => ofXnn 0xF (idxNibble x) 0x18
  | .addI x => ofXnn 0xF (idxNibble x) 0x1E
  | .ldFont x => ofXnn 0xF (idxNibble x) 0x29
  | .ldBcd x => ofXnn 0xF (idxNibble x) 0x33
  | .dumpRegs x => ofXnn 0xF (idxNibble x) 0x55
  | .loadRegs x => ofXnn 0xF (idxNibble x) 0x65

/-- The bytes of an instruction as memory stores them (R43). -/
def encodeBytes (i : Instr) : List Byte := [highByte (encode i), lowByte (encode i)]

/-! ### The opcode table's rows (R64, spec/opcode_table.json) -/

/-- A row of the opcode map: a word `w` selects it when `w & mask = match` (R64). -/
structure OpcodeRow where
  mask : Word
  value : Word
  deriving DecidableEq, Repr

/-- The row of R64 an instruction belongs to. -/
def Instr.row : Instr → OpcodeRow
  | .cls _ => ⟨0xF0FF, 0x00E0⟩
  | .ret _ => ⟨0xF0FF, 0x00EE⟩
  | .jp _ => ⟨0xF000, 0x1000⟩
  | .call _ => ⟨0xF000, 0x2000⟩
  | .seImm _ _ => ⟨0xF000, 0x3000⟩
  | .sneImm _ _ => ⟨0xF000, 0x4000⟩
  | .seReg _ _ _ => ⟨0xF000, 0x5000⟩
  | .ldImm _ _ => ⟨0xF000, 0x6000⟩
  | .addImm _ _ => ⟨0xF000, 0x7000⟩
  | .ldReg _ _ => ⟨0xF00F, 0x8000⟩
  | .orReg _ _ => ⟨0xF00F, 0x8001⟩
  | .andReg _ _ => ⟨0xF00F, 0x8002⟩
  | .xorReg _ _ => ⟨0xF00F, 0x8003⟩
  | .addReg _ _ => ⟨0xF00F, 0x8004⟩
  | .subReg _ _ => ⟨0xF00F, 0x8005⟩
  | .shr _ _ => ⟨0xF00F, 0x8006⟩
  | .subnReg _ _ => ⟨0xF00F, 0x8007⟩
  | .shl _ _ => ⟨0xF00F, 0x800E⟩
  | .sneReg _ _ _ => ⟨0xF000, 0x9000⟩
  | .ldI _ => ⟨0xF000, 0xA000⟩
  | .jpV0 _ => ⟨0xF000, 0xB000⟩
  | .rnd _ _ => ⟨0xF000, 0xC000⟩
  | .drw _ _ _ => ⟨0xF000, 0xD000⟩
  | .skp _ => ⟨0xF0FF, 0xE09E⟩
  | .sknp _ => ⟨0xF0FF, 0xE0A1⟩
  | .ldFromDt _ => ⟨0xF0FF, 0xF007⟩
  | .ldKey _ => ⟨0xF0FF, 0xF00A⟩
  | .ldDt _ => ⟨0xF0FF, 0xF015⟩
  | .ldSt _ => ⟨0xF0FF, 0xF018⟩
  | .addI _ => ⟨0xF0FF, 0xF01E⟩
  | .ldFont _ => ⟨0xF0FF, 0xF029⟩
  | .ldBcd _ => ⟨0xF0FF, 0xF033⟩
  | .dumpRegs _ => ⟨0xF0FF, 0xF055⟩
  | .loadRegs _ => ⟨0xF0FF, 0xF065⟩

/-- All rows of R64, in the table's order. -/
def opcodeRows : List OpcodeRow :=
  [⟨0xF0FF, 0x00E0⟩, ⟨0xF0FF, 0x00EE⟩, ⟨0xF000, 0x1000⟩, ⟨0xF000, 0x2000⟩, ⟨0xF000, 0x3000⟩,
   ⟨0xF000, 0x4000⟩, ⟨0xF000, 0x5000⟩, ⟨0xF000, 0x6000⟩, ⟨0xF000, 0x7000⟩] ++
  [⟨0xF00F, 0x8000⟩, ⟨0xF00F, 0x8001⟩, ⟨0xF00F, 0x8002⟩, ⟨0xF00F, 0x8003⟩, ⟨0xF00F, 0x8004⟩,
   ⟨0xF00F, 0x8005⟩, ⟨0xF00F, 0x8006⟩, ⟨0xF00F, 0x8007⟩, ⟨0xF00F, 0x800E⟩] ++
  [⟨0xF000, 0x9000⟩, ⟨0xF000, 0xA000⟩, ⟨0xF000, 0xB000⟩, ⟨0xF000, 0xC000⟩, ⟨0xF000, 0xD000⟩,
   ⟨0xF0FF, 0xE09E⟩, ⟨0xF0FF, 0xE0A1⟩] ++
  [⟨0xF0FF, 0xF007⟩, ⟨0xF0FF, 0xF00A⟩, ⟨0xF0FF, 0xF015⟩, ⟨0xF0FF, 0xF018⟩, ⟨0xF0FF, 0xF01E⟩,
   ⟨0xF0FF, 0xF029⟩, ⟨0xF0FF, 0xF033⟩, ⟨0xF0FF, 0xF055⟩, ⟨0xF0FF, 0xF065⟩]

/-- A word selects a row (R64). -/
def OpcodeRow.selects (row : OpcodeRow) (w : Word) : Bool := w &&& row.mask == row.value

/-! ### The host's reading of a table word -/

/-- The opcode of a table word of `nbits` bits: bit 0 is the least significant bit of the 16-bit
word, and the bits from `nbits` up are 0. -/
def tableWord (nbits w : Nat) : Word := BitVec.ofNat 16 (w % 2 ^ nbits)

/-- The instruction the decoder reads from a table word, laid out in memory order (R43). -/
def decodeTableWord (nbits w : Nat) : Option Instr :=
  match decodeBytes [highByte (tableWord nbits w), lowByte (tableWord nbits w)] with
  | .ok (i, _) => some i
  | .error _ => none

end Sys2Proof
end

