-- ==== Sys2Proof/Config.lean ====
section
/-! DEFINITION. The parameters of spec/00_scope.md R5 and the values the spec leaves open.
A parameter the spec calls *open* is an `opaque` constant: nothing can be proved of its value, and a
claim that wants the spec's default names it as a premise. `MEM_SIZE` (4096), `FB_W` (64), `FB_H`
(32) and `STACK_DEPTH` (16: DESIGN CHOICE of the spec, the least depth the source allows, D3; log 11)
stand as numerals where they are used. -/

namespace Sys2Proof.Config

/-- `FONT_BASE` (R5). -/
abbrev fontBase : Nat := 0

/-- `PROG_BASE` (R5). -/
abbrev progBase : Nat := 0x200

/-- `PROG_MAX` (R5): 0x1000 - 0x200 bytes. -/
abbrev progMax : Nat := 3584

/-- `SHIFT_USES_VY` (R5, R118, R120). DESIGN CHOICE of the spec (D8; log 12): the shifts read `V[x]`. -/
def shiftUsesVy : Bool := false

/-- `FONT_TABLE` (R5, R34), OPEN (D21; log 3): the 80 bytes at 0x000 after reset. -/
opaque fontTable : Vector Byte 80

/-- `BNNN_OFFSET` (R5, R107), OPEN (D7; log 2): a function of the opcode alone. -/
opaque bnnnOffset : Word → Word

/-- The draws of `Cxnn` (R121), OPEN (D18, U1; log 1): the k-th executed draw, under no law. -/
opaque freeDraw : Nat → Byte

/-- The default `FONT_TABLE` of R34. PRESUMED (the spec marks it general knowledge, G2; log 3). -/
def standardFont : Vector Byte 80 := ⟨
  #[0xF0, 0x90, 0x90, 0x90, 0xF0,  0x20, 0x60, 0x20, 0x20, 0x70,  0xF0, 0x10, 0xF0, 0x80, 0xF0,
    0xF0, 0x10, 0xF0, 0x10, 0xF0,  0x90, 0x90, 0xF0, 0x10, 0x10,  0xF0, 0x80, 0xF0, 0x10, 0xF0,
    0xF0, 0x80, 0xF0, 0x90, 0xF0,  0xF0, 0x10, 0x20, 0x40, 0x40,  0xF0, 0x90, 0xF0, 0x90, 0xF0,
    0xF0, 0x90, 0xF0, 0x10, 0xF0,  0xF0, 0x90, 0xF0, 0x90, 0x90,  0xE0, 0x90, 0xE0, 0x90, 0xE0,
    0xF0, 0x80, 0x80, 0x80, 0xF0,  0xE0, 0x90, 0x90, 0x90, 0xE0,  0xF0, 0x80, 0xF0, 0x80, 0xF0,
    0xF0, 0x80, 0xF0, 0x80, 0x80], rfl⟩

/-- The premise "FONT_TABLE is the default table" (D21), for claims that rest on a font byte. -/
def StandardFont : Prop := fontTable = standardFont

/-- The premise "BNNN_OFFSET is the default" (D7), for claims that rest on the target of `Bnnn`. -/
def ConventionalBnnn : Prop := ∀ op : Word, bnnnOffset op = op &&& 0x0FFF#16

end Sys2Proof.Config
end

