-- ==== Sys2Proof/Machine/State.lean ====
section
/-! DEFINITION. The machine's state (spec/10_state.md R20 to R38) as plain data, its reset value
(R36), and the reasons a step may stop. -/

namespace Sys2Proof.Machine

/-- The run state (R32, R89). -/
inductive RunState where
  | ready
  | faulted
  deriving DecidableEq, Repr

/-- The error names of R181. `none` is code 0. Only `none` and the three terminal errors ever stand
in a fault record; `illegalOpcode` is the diagnostic's code and `loadTooLarge` the load's. -/
inductive ErrorCode where
  | none
  | stackUnderflow
  | stackOverflow
  | memOutOfRange
  | illegalOpcode
  | loadTooLarge
  deriving DecidableEq, Repr

/-- The fault record `(code, fpc, fop, faddr)` (R32). -/
structure FaultRecord where
  code : ErrorCode
  /-- the pc of the faulting cycle -/
  fpc : Word
  /-- the fetched opcode, 0 when the fetch itself faulted -/
  fop : Word
  /-- the offending memory address, 0 for the stack errors -/
  faddr : Word
  deriving DecidableEq, Repr

/-- The report `IllegalOpcode(pc, op)` (R85, R185). -/
structure IllegalOpcode where
  pc : Word
  op : Word
  deriving DecidableEq, Repr

/-- The outputs of the last cycle (R33, R85), registered until the next one (log 6). -/
structure Outputs where
  soundOn : Bool
  diag : Option IllegalOpcode
  /-- the error report: the fault record, in the cycle that raised -/
  error : Option FaultRecord
  deriving DecidableEq, Repr

/-- Memory: the bytes that differ from the reset contents, as (address, byte) pairs in canonical
form (Machine/Memory.lean). -/
abbrev Memory := List Host.Cell

/-- The framebuffer, 32 rows of 64 cells (R29). -/
abbrev Framebuffer := Vector (Vector Bool 64) 32

/-- Everything the spec gives the machine (R20 to R33), and two fields of the model's own. -/
structure State where
  /-- 4096 bytes (R20) -/
  mem : Memory
  /-- V0 to VF (R21, R22) -/
  v : Vector Byte 16
  /-- the address register I (R23) -/
  i : Word
  /-- the program counter (R24) -/
  pc : Word
  /-- the call stack, STACK_DEPTH = 16 (R25) -/
  stack : Vector Word 16
  /-- the number of stack entries in use (R26) -/
  sp : Fin 17
  /-- the delay timer DT (R27) -/
  dt : Byte
  /-- the sound timer ST (R28) -/
  st : Byte
  /-- the framebuffer (R29) -/
  fb : Framebuffer
  /-- the key-input latch (R30) -/
  key : Option Nibble
  /-- the redraw flag (R31) -/
  redraw : Bool
  /-- the run state (R32) -/
  run : RunState
  /-- the fault record (R32) -/
  fault : FaultRecord
  /-- the outputs of the last cycle (R33) -/
  out : Outputs
  /-- the model's own: an `IllegalOpcode` was reported (R87; log 8) -/
  illegalSeen : Bool
  /-- the model's own: how many free draws `Cxnn` has taken (log 1) -/
  draws : Nat
  deriving DecidableEq, Repr

/-- Why a step could stop. `step` itself never answers one: a terminal error enters FAULTED, which is
a next state (R187; log 5). -/
inductive Fault where
  /-- A cycle raised a terminal error. Answered by `Machine.haltingStep` (Safety.lean) alone, for
  claims that read a raise as R187's "fault outcome". Safe: the run ends where FAULTED begins. -/
  | terminal (r : FaultRecord)
  deriving DecidableEq, Repr

/-- Why the model could decline an instruction. -/
inductive Refusal where
  /-- Raised by an arm of `exec` whose instruction has no meaning yet. No arm does. Safe. -/
  | notModelled (mnemonic : String)
  deriving DecidableEq, Repr

/-- What an instruction's meaning answers. -/
abbrev Result := Host.Outcome State Fault Refusal

/-- The fault record "all zero" (R36). -/
def FaultRecord.zero : FaultRecord := ⟨.none, 0, 0, 0⟩

/-- Outputs false and none (R36, R85). -/
def Outputs.quiet : Outputs := ⟨false, .none, .none⟩

/-- The machine right after reset (R36): "memory zeroed except font set, PC = 0x200, all else
zero/empty". Nothing is listed in memory, since an unlisted byte reads as its reset contents.
The last two fields are the model's own (DESIGN CHOICE, log 1 and log 8). -/
def State.reset : State where
  mem := []
  v := Vector.replicate 16 0
  i := 0
  pc := 0x200
  stack := Vector.replicate 16 0
  sp := 0
  dt := 0
  st := 0
  fb := Vector.replicate 32 (Vector.replicate 64 false)
  key := none
  redraw := false
  run := .ready
  fault := FaultRecord.zero
  out := Outputs.quiet
  illegalSeen := false
  draws := 0

end Sys2Proof.Machine
end

