-- ==== Sys2Proof/Machine/Memory.lean ====
section
/-! DEFINITION. Memory as a canonical list (spec/20_memory.md R40 to R44). These operations are
total; the fetch and the meanings of the memory instructions check the range first (R42). -/

namespace Sys2Proof.Machine

/-- What an address that memory does not list reads as: its reset contents, FONT_TABLE at 0x000 to
0x04F and zero elsewhere (R36, R41). -/
def Memory.unlisted (a : Nat) : Byte :=
  if h : a < 80 then Config.fontTable[a] else 0

/-- The byte at address `a` (R42). -/
def Memory.read : Memory → Nat → Byte
  | [], a => Memory.unlisted a
  | (b, w) :: m, a => if a = b then w else Memory.read m a

/-- `MemRead(addr, 1)`: the byte, or the address past 0xFFF that `MemOutOfRange` is raised with (R42). -/
def memRead (m : Memory) (a : Nat) : Except Word Byte :=
  if a < 4096 then .ok (m.read a) else .error (BitVec.ofNat 16 a)

/-- List `v` at address `a`, keeping the addresses rising. -/
def Memory.insert (a : Nat) (v : Byte) : Memory → Memory
  | [] => [(a, v)]
  | (b, w) :: m =>
    if a < b then (a, v) :: (b, w) :: m
    else if a = b then (a, v) :: m
    else (b, w) :: Memory.insert a v m

/-- List nothing at address `a`. -/
def Memory.erase (a : Nat) (m : Memory) : Memory := m.filter (fun c => c.1 != a)

/-- Store `v` at address `a` (R42). An address above 0xFFF names no cell, and the operations that
call this have raised by then (log 17). -/
def Memory.write (m : Memory) (a : Nat) (v : Byte) : Memory :=
  if 4096 ≤ a then m
  else if v = Memory.unlisted a then m.erase a
  else m.insert a v

/-- Store bytes at ascending addresses from `a` (R44). -/
def Memory.writeBytes (m : Memory) (a : Nat) : List Byte → Memory
  | [] => m
  | v :: vs => Memory.writeBytes (m.write a v) (a + 1) vs

/-- The `n` bytes at ascending addresses from `a` (R44). -/
def Memory.readBytes (m : Memory) (a : Nat) : Nat → List Byte
  | 0 => []
  | n + 1 => m.read a :: Memory.readBytes m (a + 1) n

/-- The canonical form from address `lo` on: addresses strictly rising, inside the address space,
and no entry equal to what an unlisted address reads as. -/
def Memory.wfFrom (lo : Nat) : Memory → Bool
  | [] => true
  | (a, v) :: m =>
    decide (lo ≤ a) && decide (a < 4096) && v != Memory.unlisted a
      && Memory.wfFrom (a + 1) m

/-- Memory is in canonical form, so that equal memories are equal data. -/
def Memory.wf (m : Memory) : Bool := Memory.wfFrom 0 m

/-- All `n` addresses from `a` exist (R42). -/
def Memory.inRange (a n : Nat) : Bool := n == 0 || decide (a + n ≤ 4096)

end Sys2Proof.Machine
end

