-- ==== Sys2Proof/Machine/Ops.lean ====
section
/-! DEFINITION. The named operations over registers, pc, stack and memory, raising an error, and the
one way out of FAULTED (spec/10_state.md, spec/60_exceptions.md R187, R188). -/

namespace Sys2Proof.Machine

/-! ### Registers -/

/-- `V[r]` (R7, R21). -/
def State.reg (s : State) (r : RegIdx) : Byte := s.v[r.val]

/-- `V[r] <- b` (R7, R21). -/
def State.setReg (s : State) (r : RegIdx) (b : Byte) : State := { s with v := s.v.set r.val b }

/-- `I <- w` (R23). -/
def State.setI (s : State) (w : Word) : State := { s with i := w }

/-- `DT <- b` (R27). -/
def State.setDt (s : State) (b : Byte) : State := { s with dt := b }

/-- `ST <- b` (R28). -/
def State.setSt (s : State) (b : Byte) : State := { s with st := b }

/-- Replace the framebuffer and set the redraw flag (R29, R31). -/
def State.setFb (s : State) (f : Framebuffer) : State := { s with fb := f, redraw := true }

/-- Replace the register file, for the instruction that loads several registers (R135). -/
def State.setRegs (s : State) (v : Vector Byte 16) : State := { s with v := v }

/-- Replace memory. -/
def State.setMem (s : State) (m : Memory) : State := { s with mem := m }

/-! ### The program counter (R24, R88) -/

/-- `pc <- target`. -/
def State.setPc (s : State) (target : Word) : State := { s with pc := target }

/-- `pc <- pc + 2`, modulo 2^16. -/
def State.advance (s : State) : State := { s with pc := s.pc + 2 }

/-- A skip: `pc <- pc + 4` if the condition holds, else `pc <- pc + 2`. -/
def State.skipIf (s : State) (c : Bool) : State :=
  { s with pc := if c then s.pc + 4 else s.pc + 2 }

/-! ### The call stack (R25, R26) -/

/-- Write `stack[sp]`, then add 1 to `sp`; nothing when the stack is full. -/
def State.push (s : State) (w : Word) : Option State :=
  if h : s.sp.val < 16 then
    some { s with stack := s.stack.set s.sp.val w, sp := ⟨s.sp.val + 1, by omega⟩ }
  else none

/-- Subtract 1 from `sp`, then read `stack[sp]`; nothing when the stack is empty. The entry is left
in place (R100). -/
def State.pop (s : State) : Option (Word × State) :=
  if h : s.sp.val = 0 then none
  else some (s.stack[s.sp.val - 1]'(by omega), { s with sp := ⟨s.sp.val - 1, by omega⟩ })

/-! ### Raising an error: the machine's only trap entry (R187) -/

/-- `raise`: applied to the state the cycle began with, so that none of its writes is kept; the fault
record is written, `run` becomes FAULTED, and the cycle's outputs are false, none and the record
(R85, R86, R187). Control goes nowhere. It is a next state (log 5). -/
def State.raise (s : State) (code : ErrorCode) (fop faddr : Word) : State :=
  { s with
    run := .faulted
    fault := ⟨code, s.pc, fop, faddr⟩
    out := ⟨false, none, some ⟨code, s.pc, fop, faddr⟩⟩ }

/-- The first address past the end of memory: what Dxyn, Fx33, Fx55 and Fx65 record when they leave
it (R184). -/
def pastEnd : Word := 0x1000

/-- There is no return from an error (R188). The host's `reset()` is the only exit from FAULTED: all
state to the values of R36 (R161). The model's own fields are no state of the hardware and keep
their value (log 16). -/
def State.resetOp (s : State) : State :=
  { State.reset with illegalSeen := s.illegalSeen, draws := s.draws }

/-! ### Memory runs (R42, R44) -/

/-- Store bytes at ascending addresses from `a`. -/
def State.storeBytes (s : State) (a : Nat) (bs : List Byte) : State :=
  s.setMem (s.mem.writeBytes a bs)

/-- The first `n` registers filled from ascending addresses starting at `a` (R135). -/
def fillRegs (m : Memory) (a : Nat) (v : Vector Byte 16) : Nat → Vector Byte 16
  | 0 => v
  | n + 1 => (fillRegs m a v n).setIfInBounds n (m.read (a + n))

/-- `V[0]` to `V[x]` in order (R134). -/
def State.regsUpTo (s : State) (x : RegIdx) : List Byte := s.v.toList.take (x.val + 1)

/-- Store an opcode's two bytes at `a` and `a + 1`, high byte first (R43). -/
def State.storeWord (s : State) (a : Nat) (op : Word) : State :=
  s.storeBytes a [highByte op, lowByte op]

end Sys2Proof.Machine
end

