-- ==== Sys2Proof/Machine/Cycle.lean ====
section
/-! DEFINITION. The phases of `cycle()` around the execute phase (spec/40_cycle.md R80 to R87). -/

namespace Sys2Proof.Machine

/-- Phase 1, fetch: the two bytes at `pc`, big-endian, or the first of the two addresses that is out
of range (R43, R46, R81). -/
def State.fetch (s : State) : Except Word Word :=
  match memRead s.mem s.pc.toNat with
  | .error a => .error a
  | .ok hi =>
    match memRead s.mem (s.pc.toNat + 1) with
    | .error a => .error a
    | .ok lo => .ok (wordOfBytes hi lo)

/-- One tick of a timer: never below 0 (R84(d)). -/
def tick (b : Byte) : Byte := if b.toNat > 0 then b - 1 else b

/-- Phase 4, timers, and the cycle's outputs: `sound_on` from ST before its decrement, the
diagnostic, no error report (R84, R85). -/
def State.timers (s : State) (diag : Option IllegalOpcode) : State :=
  { s with
    dt := tick s.dt
    st := tick s.st
    out := ⟨s.st == 1, diag, none⟩ }

/-- End of a cycle whose instruction was known: the timer phase, or nothing more if it raised (R86). -/
def finishCycle : Result → Result
  | .next s => match s.run with
    | .ready => .next (s.timers none)
    | .faulted => .next s
  | .fault r => .fault r
  | .refused r => .refused r

/-- The execute phase of an unknown word and the rest of its cycle: nothing is written, pc stays, the
report is made, the timers tick (R87). The sticky bit is the model's own (log 8). -/
def State.unknownOpcode (s : State) (op : Word) : State :=
  { s with illegalSeen := true }.timers (some ⟨s.pc, op⟩)

/-- The fetch leaves the memory (R81, R184). -/
def State.fetchFault (s : State) (a : Word) : State := s.raise .memOutOfRange 0 a

/-- A cycle of a FAULTED core: no state change, outputs false and none (R80, R85). -/
def State.idleCycle (s : State) : State := { s with out := Outputs.quiet }

end Sys2Proof.Machine
end

