-- ==== Sys2Proof/Machine/Flags.lean ====
section
/-! DEFINITION. The values of VF (spec/10_state.md R22; spec/42_alu.md R122). -/

namespace Sys2Proof.Machine

/-- A flag as VF holds it: exactly 0x00 or 0x01 (R122(f)). -/
def flagByte (f : Bool) : Byte := if f then 1 else 0

/-- The unreduced sum is above 255 (R116, R122(g)). -/
def carry (a b : Byte) : Bool := decide (a.toNat + b.toNat > 255)

/-- Minuend not below subtrahend (R117, R122(g)). -/
def notBorrow (a b : Byte) : Bool := decide (a.toNat ≥ b.toNat)

/-- The bit a right shift drops (R118). -/
def droppedRight (a : Byte) : Bool := a.getLsbD 0

/-- The bit a left shift drops (R120). -/
def droppedLeft (a : Byte) : Bool := a.getLsbD 7

/-- Write the result to `V[x]`, then the flag to VF, which remains when `x` is 15 (R122(e)). -/
def State.setResultFlag (s : State) (x : RegIdx) (r : Byte) (f : Bool) : State :=
  (s.setReg x r).setReg vF (flagByte f)

end Sys2Proof.Machine
end

