-- ==== Sys2Proof/Machine/Operands.lean ====
section
/-! DEFINITION. Operand forms (spec/30_encoding.md R67; spec/43_index_memory.md). -/

namespace Sys2Proof.Machine

/-- `zext_16(nnn)` (R67). -/
def addrWord (nnn : Addr) : Word := nnn.setWidth 16

/-- `zext_16(V[x])` (R107, R131). -/
def byteWord (b : Byte) : Word := b.setWidth 16

/-- The address `I` names, on unbounded naturals: `I + k` is never reduced modulo 4096 (R42). -/
def State.indexAddr (s : State) : Nat := s.i.toNat

/-- The target of `Bnnn`: `V[0] + BNNN_OFFSET(op)` modulo 2^16, of the full opcode (R107). -/
def State.offsetTarget (s : State) (op : Word) : Word :=
  byteWord (s.reg 0) + Config.bnnnOffset op

/-- `(I + V[x]) mod 4096` (R131). -/
def State.indexPlus (s : State) (b : Byte) : Word :=
  BitVec.ofNat 16 ((s.i.toNat + b.toNat) % 4096)

/-- The address of the glyph of the low nibble (R132). -/
def glyphAddr (b : Byte) : Word := BitVec.ofNat 16 (Config.fontBase + 5 * (b.toNat % 16))

/-- Hundreds, tens, units, one digit a byte (R133). -/
def bcdDigits (b : Byte) : List Byte :=
  [BitVec.ofNat 8 (b.toNat / 100), BitVec.ofNat 8 (b.toNat / 10 % 10), BitVec.ofNat 8 (b.toNat % 10)]

/-- The register a shift reads (R118, R120). -/
def State.shiftSource (s : State) (x y : RegIdx) : Byte :=
  if Config.shiftUsesVy then s.reg y else s.reg x

/-- `key = Some(k)` and `zext_8(k) = V[x]`: the whole register is compared (R150). -/
def State.keyPressed (s : State) (x : RegIdx) : Bool :=
  match s.key with
  | none => false
  | some k => k.setWidth 8 == s.reg x

end Sys2Proof.Machine
end

