-- ==== Sys2Proof/Machine/Alu.lean ====
section
/-! DEFINITION. Register loads and arithmetic (spec/42_alu.md R110 to R122). Every operand is read
before anything is written (R122(d)). -/

namespace Sys2Proof.Machine

/-- `(a + b) mod 256` (R122(b)). -/
def addWrap (a b : Byte) : Byte := BitVec.ofNat 8 ((a.toNat + b.toNat) % 256)

/-- `(a - b) mod 256`, as `(a + 256 - b) mod 256` (R117). -/
def subWrap (a b : Byte) : Byte := BitVec.ofNat 8 ((a.toNat + 256 - b.toNat) % 256)

/-- `a >> 1`, logical (R118). -/
def shiftRightOne (a : Byte) : Byte := BitVec.ofNat 8 (a.toNat / 2)

/-- `(a << 1) mod 256` (R120). -/
def shiftLeftOne (a : Byte) : Byte := BitVec.ofNat 8 (a.toNat * 2 % 256)

/-- `6xnn` (R110). -/
def execLdImm (x : RegIdx) (nn : Byte) (s : State) : Result :=
  .next (s.setReg x nn).advance

/-- `7xnn`, no flag change (R111). -/
def execAddImm (x : RegIdx) (nn : Byte) (s : State) : Result :=
  .next (s.setReg x (addWrap (s.reg x) nn)).advance

/-- `8xy0` (R112). -/
def execLdReg (x y : RegIdx) (s : State) : Result :=
  .next (s.setReg x (s.reg y)).advance

/-- `8xy1`, VF unchanged (R113). -/
def execOrReg (x y : RegIdx) (s : State) : Result :=
  .next (s.setReg x (s.reg x ||| s.reg y)).advance

/-- `8xy2`, VF unchanged (R114). -/
def execAndReg (x y : RegIdx) (s : State) : Result :=
  .next (s.setReg x (s.reg x &&& s.reg y)).advance

/-- `8xy3`, VF unchanged (R115). -/
def execXorReg (x y : RegIdx) (s : State) : Result :=
  .next (s.setReg x (s.reg x ^^^ s.reg y)).advance

/-- `8xy4`, no carry in (R116). -/
def execAddReg (x y : RegIdx) (s : State) : Result :=
  .next (s.setResultFlag x (addWrap (s.reg x) (s.reg y)) (carry (s.reg x) (s.reg y))).advance

/-- `8xy5`, `V[x] - V[y]` (R117). -/
def execSubReg (x y : RegIdx) (s : State) : Result :=
  .next (s.setResultFlag x (subWrap (s.reg x) (s.reg y)) (notBorrow (s.reg x) (s.reg y))).advance

/-- `8xy6` (R118). -/
def execShr (x y : RegIdx) (s : State) : Result :=
  .next (s.setResultFlag x (shiftRightOne (s.shiftSource x y))
    (droppedRight (s.shiftSource x y))).advance

/-- `8xy7`, `V[y] - V[x]` (R119). -/
def execSubnReg (x y : RegIdx) (s : State) : Result :=
  .next (s.setResultFlag x (subWrap (s.reg y) (s.reg x)) (notBorrow (s.reg y) (s.reg x))).advance

/-- `8xyE` (R120). -/
def execShl (x y : RegIdx) (s : State) : Result :=
  .next (s.setResultFlag x (shiftLeftOne (s.shiftSource x y))
    (droppedLeft (s.shiftSource x y))).advance

/-- `Cxnn` for a given draw (R121). -/
def State.drawInto (s : State) (x : RegIdx) (nn r : Byte) : State :=
  ({ s with draws := s.draws + 1 }.setReg x (r &&& nn)).advance

/-- `Cxnn`: the draw is a free value, a fresh one for each execution (R121; log 1). -/
def execRnd (x : RegIdx) (nn : Byte) (s : State) : Result :=
  .next (s.drawInto x nn (Config.freeDraw s.draws))

end Sys2Proof.Machine
end

