-- ==== Sys2Proof/Machine/Control.lean ====
section
/-! DEFINITION. Control transfer (spec/41_control.md R100 to R107). -/

namespace Sys2Proof.Machine

/-- `00EE` (R100). -/
def execRet (ign : Nibble) (s : State) : Result :=
  match s.pop with
  | none => .next (s.raise .stackUnderflow (encode (.ret ign)) 0)
  | some (target, s') => .next (s'.setPc target)

/-- `1nnn` (R101). -/
def execJp (nnn : Addr) (s : State) : Result :=
  .next (s.setPc (addrWord nnn))

/-- `2nnn` (R102). -/
def execCall (nnn : Addr) (s : State) : Result :=
  match s.push (s.pc + 2) with
  | none => .next (s.raise .stackOverflow (encode (.call nnn)) 0)
  | some s' => .next (s'.setPc (addrWord nnn))

/-- `3xnn` (R103). -/
def execSeImm (x : RegIdx) (nn : Byte) (s : State) : Result :=
  .next (s.skipIf (s.reg x == nn))

/-- `4xnn` (R104). -/
def execSneImm (x : RegIdx) (nn : Byte) (s : State) : Result :=
  .next (s.skipIf (s.reg x != nn))

/-- `5xy0` (R105). -/
def execSeReg (x y : RegIdx) (s : State) : Result :=
  .next (s.skipIf (s.reg x == s.reg y))

/-- `9xy0` (R106). -/
def execSneReg (x y : RegIdx) (s : State) : Result :=
  .next (s.skipIf (s.reg x != s.reg y))

/-- `Bnnn` (R107). -/
def execJpV0 (nnn : Addr) (s : State) : Result :=
  .next (s.setPc (s.offsetTarget (encode (.jpV0 nnn))))

end Sys2Proof.Machine
end

