-- ==== Sys2Proof/Machine/Display.lean ====
section
/-! DEFINITION. Display instructions (spec/44_display.md R140 to R144). -/

namespace Sys2Proof.Machine

/-- `fb[k]`, the cell of column `k mod 64` and row `k / 64` (R29); there is no cell above 2047. -/
def cell (f : Framebuffer) (k : Nat) : Bool :=
  if h : k < 2048 then
    (f[k / 64]'(by omega))[k % 64]'(by omega)
  else false

/-- `fb[k] <- fb[k] ^ 1` (R141). -/
def toggleCell (f : Framebuffer) (k : Nat) : Framebuffer :=
  if h : k < 2048 then
    f.set (k / 64)
      ((f[k / 64]'(by omega)).set (k % 64) (!cell f k) (by omega)) (by omega)
  else f

/-- Every cell 0 (R140). -/
def blankFb : Framebuffer := Vector.replicate 32 (Vector.replicate 64 false)

/-- The cell of a pixel, each coordinate reduced separately (R142). -/
def cellIndex (px py : Nat) : Nat := px % 64 + 64 * (py % 32)

/-- A sprite being drawn: the framebuffer so far, and whether a cell went from 1 to 0. -/
structure Drawing where
  fb : Framebuffer
  collision : Bool
  deriving DecidableEq, Repr

/-- One set sprite bit: note a collision, then XOR the cell (R141). -/
def Drawing.xorPixel (d : Drawing) (k : Nat) : Drawing :=
  { fb := toggleCell d.fb k, collision := d.collision || cell d.fb k }

/-- The first `cols` columns of one sprite row; column 0 is bit 7 (R141). -/
def Drawing.xorRow (d : Drawing) (vx py : Nat) (b : Byte) : Nat → Drawing
  | 0 => d
  | col + 1 =>
    let d' := d.xorRow vx py b col
    if b.getLsbD (7 - col) then d'.xorPixel (cellIndex (vx + col) py) else d'

/-- Sprite rows from row `vy` down (R141). -/
def Drawing.xorRows (d : Drawing) (vx vy : Nat) : List Byte → Drawing
  | [] => d
  | b :: bs => (d.xorRow vx vy b 8).xorRows vx (vy + 1) bs

/-- The sprite of a list of row bytes drawn at column `vx`, row `vy` (R141). -/
def drawSprite (f : Framebuffer) (vx vy : Nat) (rows : List Byte) : Drawing :=
  Drawing.xorRows { fb := f, collision := false } vx vy rows

/-- `00E0`: the redraw flag is set even if nothing was lit (R140). -/
def execCls (s : State) : Result :=
  .next (s.setFb blankFb).advance

/-- `Dxyn`: coordinates are read before VF is written (R141, R143); VF and the redraw flag are
written also when nothing is drawn. -/
def execDrw (x y : RegIdx) (n : RowCount) (s : State) : Result :=
  if Memory.inRange s.indexAddr n.val then
    let d := drawSprite s.fb (s.reg x).toNat (s.reg y).toNat (s.mem.readBytes s.indexAddr n.val)
    .next ((s.setFb d.fb).setReg vF (flagByte d.collision)).advance
  else .next (s.raise .memOutOfRange (encode (.drw x y n)) pastEnd)

end Sys2Proof.Machine
end

