-- ==== Sys2Proof/Machine/IndexMemory.lean ====
section
/-! DEFINITION. Address register and memory instructions (spec/43_index_memory.md R130 to R135). All
addresses are checked before any write (R42); `I` is never changed by a transfer. -/

namespace Sys2Proof.Machine

/-- `Annn` (R130). -/
def execLdI (nnn : Addr) (s : State) : Result :=
  .next (s.setI (addrWord nnn)).advance

/-- `Fx1E`, a silent wrap at 12 bits, no flag (R131). -/
def execAddI (x : RegIdx) (s : State) : Result :=
  .next (s.setI (s.indexPlus (s.reg x))).advance

/-- `Fx29`, the high nibble ignored (R132). -/
def execLdFont (x : RegIdx) (s : State) : Result :=
  .next (s.setI (glyphAddr (s.reg x))).advance

/-- `Fx33` (R133). -/
def execLdBcd (x : RegIdx) (s : State) : Result :=
  if Memory.inRange s.indexAddr 3 then
    .next (s.storeBytes s.indexAddr (bcdDigits (s.reg x))).advance
  else .next (s.raise .memOutOfRange (encode (.ldBcd x)) pastEnd)

/-- `Fx55` (R134). -/
def execDumpRegs (x : RegIdx) (s : State) : Result :=
  if Memory.inRange s.indexAddr (x.val + 1) then
    .next (s.storeBytes s.indexAddr (s.regsUpTo x)).advance
  else .next (s.raise .memOutOfRange (encode (.dumpRegs x)) pastEnd)

/-- `Fx65` (R135). -/
def execLoadRegs (x : RegIdx) (s : State) : Result :=
  if Memory.inRange s.indexAddr (x.val + 1) then
    .next (s.setRegs (fillRegs s.mem s.indexAddr s.v (x.val + 1))).advance
  else .next (s.raise .memOutOfRange (encode (.loadRegs x)) pastEnd)

end Sys2Proof.Machine
end

