-- ==== Sys2Proof/Machine/KeysTimers.lean ====
section
/-! DEFINITION. Key and timer instructions (spec/45_keys_timers.md R150 to R156). The timer phase
that follows is Machine/Cycle.lean's. -/

namespace Sys2Proof.Machine

/-- `Ex9E` (R150). -/
def execSkp (x : RegIdx) (s : State) : Result :=
  .next (s.skipIf (s.keyPressed x))

/-- `ExA1` (R151). -/
def execSknp (x : RegIdx) (s : State) : Result :=
  .next (s.skipIf (!s.keyPressed x))

/-- `Fx07` (R152). -/
def execLdFromDt (x : RegIdx) (s : State) : Result :=
  .next (s.setReg x s.dt).advance

/-- `Fx0A`: with no key latched nothing is written, pc included; the latch is never cleared (R153). -/
def execLdKey (x : RegIdx) (s : State) : Result :=
  match s.key with
  | none => .next s
  | some k => .next (s.setReg x (k.setWidth 8)).advance

/-- `Fx15` (R154). -/
def execLdDt (x : RegIdx) (s : State) : Result :=
  .next (s.setDt (s.reg x)).advance

/-- `Fx18` (R155). -/
def execLdSt (x : RegIdx) (s : State) : Result :=
  .next (s.setSt (s.reg x)).advance

end Sys2Proof.Machine
end

