-- ==== Sys2Proof/Machine/Step.lean ====
section
/-! DEFINITION. `cycle()`, the one operation that executes instructions (spec/40_cycle.md R80). -/

namespace Sys2Proof.Machine

/-- One fetch-decode-execute-timer step (R80). The draw `rnd` is `Config.freeDraw` (log 1). -/
def step (s : State) : Host.Outcome State Fault Refusal :=
  match s.run with
  | .faulted => .next s.idleCycle
  | .ready =>
    match s.fetch with
    | .error a => .next (s.fetchFault a)
    | .ok op =>
      match decodeWord op with
      | .error _ => .next (s.unknownOpcode op)
      | .ok i => finishCycle (exec i s)

/-- The state with a table word's instruction stored where `step` fetches next (R43). In a FAULTED
state, or with `pc` above 0xFFE, no store makes the machine fetch (log 15). -/
def State.withFetchWord (s : State) (nbits w : Nat) : State :=
  s.storeWord s.pc.toNat (tableWord nbits w)

end Sys2Proof.Machine
end

