-- ==== Sys2Proof/Machine/HostOps.lean ====
section
/-! DEFINITION. The host's operations (spec/50_host_interface.md R160 to R168). Each is atomic and
happens strictly between two cycles (R51; log 13). -/

namespace Sys2Proof.Machine

/-- The result of `load` (R160, R186). -/
inductive LoadResult where
  | ok
  | loadTooLarge (length : Nat)
  deriving DecidableEq, Repr

/-- `load(image)`: all of it from 0x200 up, or nothing (R162). It may be issued in either run state
(R163). -/
def State.load (s : State) (image : List Byte) : LoadResult × State :=
  if image.length > Config.progMax then (.loadTooLarge image.length, s)
  else (.ok, s.storeBytes Config.progBase image)

/-- `set_key_input(k)` (R164). -/
def State.setKeyInput (s : State) (k : Option Nibble) : State := { s with key := k }

/-- `ack_redraw()` (R165). -/
def State.ackRedraw (s : State) : State := { s with redraw := false }

/-- What the host may read between cycles (R166), and the last cycle's results (R167). -/
structure HostView where
  fb : Framebuffer
  redraw : Bool
  run : RunState
  fault : FaultRecord
  out : Outputs
  deriving DecidableEq, Repr

/-- Reading has no side effect (R166). -/
def State.hostView (s : State) : HostView := ⟨s.fb, s.redraw, s.run, s.fault, s.out⟩

/-- The operands of the `Cxnn` that the next cycle executes, if it executes one. -/
def State.pendingRnd (s : State) : Option (RegIdx × Byte) :=
  match s.run, s.fetch with
  | .ready, .ok op =>
    match decodeWord op with
    | .ok (.rnd x nn) => some (x, nn)
    | _ => none
  | _, _ => none

/-- `cycle(rnd)` with the host's entropy byte, which only a `Cxnn` uses (R80, R167). `step` is this cycle
with the free draw (log 1). -/
def State.cycleWith (s : State) (rnd : Byte) : Result :=
  match s.pendingRnd with
  | some (x, nn) => finishCycle (.next (s.drawInto x nn rnd))
  | none => step s

/-- The five operations of R160. -/
inductive HostOp where
  | reset
  | load (image : List Byte)
  | setKeyInput (k : Option Nibble)
  | ackRedraw
  | cycle
  deriving DecidableEq, Repr

/-- One host operation (R160). -/
def applyHostOp (op : HostOp) (s : State) : Result :=
  match op with
  | .reset => .next s.resetOp
  | .load image => .next (s.load image).2
  | .setKeyInput k => .next (s.setKeyInput k)
  | .ackRedraw => .next s.ackRedraw
  | .cycle => step s

/-- A sequence of host operations, in the total order of R51. -/
def runHost : List HostOp → State → Result
  | [], s => .next s
  | op :: ops, s =>
    match applyHostOp op s with
    | .next s' => runHost ops s'
    | .fault r => .fault r
    | .refused r => .refused r

end Sys2Proof.Machine
end

