-- ==== Sys2Proof/Safety.lean ====
section
/-! DEFINITION. What claims mean by a good state and a successful run (spec/10_state.md R37;
spec/40_cycle.md R87; spec/60_exceptions.md R187; spec/70_reset_and_hazards.md R215). -/

namespace Sys2Proof.Machine

/-- The invariants that hold after reset and are kept by every operation (R37, R181, R184, R85). What
the types already say (R37(a), (c)) is not repeated. -/
structure State.Inv (s : State) : Prop where
  /-- memory is in canonical form: the model's own choice (log 17) -/
  mem_wf : s.mem.wf = true
  /-- R37(b) -/
  index_lt : s.i.toNat < 0x1000
  /-- R37(d) -/
  stack_le : ∀ k, (h : k < s.sp.val) → (s.stack[k]'(by omega)).toNat ≤ 0x1000
  /-- a READY core has an empty fault record and reports no error (R32, R85; after reset, log 7) -/
  ready_clear : s.run = .ready → s.fault = FaultRecord.zero ∧ s.out.error = none
  /-- a FAULTED core records one of the terminal errors (R181, R184) -/
  faulted_record : s.run = .faulted →
    (s.fault.code = .stackUnderflow ∧ s.fault.faddr = 0) ∨
    (s.fault.code = .stackOverflow ∧ s.fault.faddr = 0) ∨
    (s.fault.code = .memOutOfRange ∧ 0x1000 ≤ s.fault.faddr.toNat)
  /-- a FAULTED core's outputs are false and none (R85) -/
  faulted_quiet : s.run = .faulted → s.out.soundOn = false ∧ s.out.diag = none

/-- A state of a successful run: not FAULTED, and no unknown opcode was ever reported (R187, U9). -/
def State.good (s : State) : Bool := s.run == .ready && !s.illegalSeen

/-- `step` read as R187 suggests to a model: a cycle that raises answers the fault outcome, and a
FAULTED core answers it again (log 5). -/
def haltingStep (s : State) : Result :=
  match step s with
  | .next t => match t.run with
    | .ready => .next t
    | .faulted => .fault (.terminal t.fault)
  | .fault r => .fault r
  | .refused r => .refused r

/-- The core rests on `self: JP self`, the test convention's end of a program (R215). -/
def State.atSelfJump (s : State) : Prop :=
  s.run = .ready ∧ ∃ nnn : Addr, s.pc = addrWord nnn ∧ s.fetch = .ok (encode (.jp nnn))

end Sys2Proof.Machine
end

