-- ==== Sys2Proof/Certificates/Slice0/Obligations.lean ====
section
/-! DEFINITION. The statements for the provers. Each docstring names the rules of spec/ it rests on;
where a clause rests on a decision, an inference or general knowledge that the spec marks as its own,
or on a choice of the model, the docstring says so. -/

open Sys2Proof Sys2Proof.Machine

/-! ### Words the statements use -/

namespace Sys2Proof.Machine

/-- The general registers an instruction may write: its destination, and VF where R22 lists it as a
side-effect writer of the flag. -/
def writesReg (i : Instr) (r : RegIdx) : Prop :=
  match i with
  | .ldImm x _ | .addImm x _ | .ldReg x _ | .orReg x _ | .andReg x _ | .xorReg x _ | .rnd x _
  | .ldFromDt x | .ldKey x => r = x
  | .addReg x _ | .subReg x _ | .shr x _ | .subnReg x _ | .shl x _ => r = x ∨ r = vF
  | .drw _ _ _ => r = vF
  | .loadRegs x => r ≤ x
  | .cls _ | .ret _ | .jp _ | .call _ | .seImm _ _ | .sneImm _ _ | .seReg _ _ _ | .sneReg _ _ _
  | .ldI _ | .jpV0 _ | .skp _ | .sknp _ | .ldDt _ | .ldSt _ | .addI _ | .ldFont _ | .ldBcd _
  | .dumpRegs _ => False

/-- The run of memory an instruction stores to, as first address and length (R133, R134); no other
instruction stores to memory. -/
def storedRun (i : Instr) (s : State) : Nat × Nat :=
  match i with
  | .ldBcd _ => (s.indexAddr, 3)
  | .dumpRegs x => (s.indexAddr, x.val + 1)
  | .cls _ | .ret _ | .jp _ | .call _ | .seImm _ _ | .sneImm _ _ | .seReg _ _ _ | .ldImm _ _
  | .addImm _ _ | .ldReg _ _ | .orReg _ _ | .andReg _ _ | .xorReg _ _ | .addReg _ _ | .subReg _ _
  | .shr _ _ | .subnReg _ _ | .shl _ _ | .sneReg _ _ _ | .ldI _ | .jpV0 _ | .rnd _ _ | .drw _ _ _
  | .skp _ | .sknp _ | .ldFromDt _ | .ldKey _ | .ldDt _ | .ldSt _ | .addI _ | .ldFont _
  | .loadRegs _ => (0, 0)

/-- A set bit of the sprite of `Dxyn` lands on cell `k`, each coordinate reduced separately
(R141, R142). -/
def spriteCovers (s : State) (x y : RegIdx) (n : RowCount) (k : Nat) : Prop :=
  ∃ row col, row < n.val ∧ col < 8 ∧
    (s.mem.read (s.i.toNat + row)).getLsbD (7 - col) = true ∧
    k = ((s.reg x).toNat + col) % 64 + 64 * (((s.reg y).toNat + row) % 32)

/-- The condition and the code of the one error an instruction can raise (R189). -/
def raisesWhen (i : Instr) (s : State) (code : ErrorCode) : Prop :=
  match i with
  | .ret _ => s.sp.val = 0 ∧ code = .stackUnderflow
  | .call _ => s.sp.val = 16 ∧ code = .stackOverflow
  | .drw _ _ n => 0 < n.val ∧ 0xFFF < s.i.toNat + n.val - 1 ∧ code = .memOutOfRange
  | .ldBcd _ => 0xFFF < s.i.toNat + 2 ∧ code = .memOutOfRange
  | .dumpRegs x => 0xFFF < s.i.toNat + x.val ∧ code = .memOutOfRange
  | .loadRegs x => 0xFFF < s.i.toNat + x.val ∧ code = .memOutOfRange
  | .cls _ | .jp _ | .seImm _ _ | .sneImm _ _ | .seReg _ _ _ | .ldImm _ _ | .addImm _ _
  | .ldReg _ _ | .orReg _ _ | .andReg _ _ | .xorReg _ _ | .addReg _ _ | .subReg _ _ | .shr _ _
  | .subnReg _ _ | .shl _ _ | .sneReg _ _ _ | .ldI _ | .jpV0 _ | .rnd _ _ | .skp _ | .sknp _
  | .ldFromDt _ | .ldKey _ | .ldDt _ | .ldSt _ | .addI _ | .ldFont _ => False

end Sys2Proof.Machine

/-! ### Encoding and decoding (30_encoding.md) -/

/-- R64, R65, R71: an instruction decodes from exactly the word it encodes to, in every spelling and
with every operand. The patterns are the spec's general knowledge (G1, log 4) and the ignored bits its
decision D6 (log 9). -/
def Obligations.DecodeIffEncode : Prop :=
  ∀ (w : Word) (i : Instr), decodeWord w = .ok i ↔ encode i = w

/-- R64: a word names an instruction exactly when it selects a row of the opcode map, the instruction
it names is that row's, and no word selects two rows (the spec marks the last as derived; the
patterns are its general knowledge, log 4). -/
def Obligations.DecodeFollowsOpcodeMap : Prop :=
  (∀ (w : Word) (i : Instr), decodeWord w = .ok i → i.row ∈ opcodeRows ∧ i.row.selects w = true) ∧
  (∀ (w : Word) (row : OpcodeRow), row ∈ opcodeRows → row.selects w = true →
    ∃ i, decodeWord w = .ok i ∧ i.row = row) ∧
  (∀ (w : Word) (r₁ r₂ : OpcodeRow), r₁ ∈ opcodeRows → r₂ ∈ opcodeRows →
    r₁.selects w = true → r₂.selects w = true → r₁ = r₂)

/-- R70: the eight words the source prints name the instructions it gives for them, and four words of
the other families (general knowledge, log 4) name theirs. -/
def Obligations.SampleWordsDecode : Prop :=
  decodeWord 0x6ABC = .ok (.ldImm 0xA 0xBC) ∧ decodeWord 0x7A01 = .ok (.addImm 0xA 0x01) ∧
  decodeWord 0x8AB4 = .ok (.addReg 0xA 0xB) ∧ decodeWord 0x00E0 = .ok (.cls 0) ∧
  decodeWord 0xD0A1 = .ok (.drw 0x0 0xA 0x1) ∧ decodeWord 0x2300 = .ok (.call 0x300) ∧
  decodeWord 0x00EE = .ok (.ret 0) ∧ decodeWord 0xFA0A = .ok (.ldKey 0xA) ∧
  decodeWord 0xA2F0 = .ok (.ldI 0x2F0) ∧ decodeWord 0xF255 = .ok (.dumpRegs 0x2) ∧
  decodeWord 0xEA9E = .ok (.skp 0xA) ∧ decodeWord 0xF318 = .ok (.ldSt 0x3)

/-- R66: the unknown words, by group and second-level key. The keys are the spec's decision D6 and
general knowledge G1 (log 4). -/
def Obligations.UnknownWordsByGroup : Prop :=
  ∀ w : Word, (∃ r, decodeWord w = .error r) ↔
    (w.toNat / 4096 = 0x0 ∧ w.toNat % 256 ∉ [0xE0, 0xEE]) ∨
    (w.toNat / 4096 = 0x8 ∧ w.toNat % 16 ∈ [0x8, 0x9, 0xA, 0xB, 0xC, 0xD, 0xF]) ∨
    (w.toNat / 4096 = 0xE ∧ w.toNat % 256 ∉ [0x9E, 0xA1]) ∨
    (w.toNat / 4096 = 0xF ∧
      w.toNat % 256 ∉ [0x07, 0x0A, 0x15, 0x18, 0x1E, 0x29, 0x33, 0x55, 0x65])

/-- R65: the spellings that differ in ignored bits act alike; a RET that raises differs in the
recorded opcode alone. The ignored bits are the spec's decision D6 (log 9), and that the shifts ignore
`y` its decision D8 (log 12). -/
def Obligations.IgnoredBitsDoNothing : Prop :=
  ∀ (a b : Nibble) (x y z : RegIdx) (s : State),
    exec (.cls a) s = exec (.cls b) s ∧
    exec (.seReg x y a) s = exec (.seReg x y b) s ∧
    exec (.sneReg x y a) s = exec (.sneReg x y b) s ∧
    exec (.shr x y) s = exec (.shr x z) s ∧
    exec (.shl x y) s = exec (.shl x z) s ∧
    (0 < s.sp.val → exec (.ret a) s = exec (.ret b) s)

/-! ### Reset (10_state.md R36) -/

/-- R36: the state after reset, element by element. The font table stays the open parameter
FONT_TABLE. The rows of the run state, the record, the stack entries and the outputs are the spec's
decisions D13 and D22. -/
def Obligations.ResetValues : Prop :=
  (∀ a, (h : a < 80) → State.reset.mem.read a = Config.fontTable[a]) ∧
  (∀ a, 80 ≤ a → State.reset.mem.read a = 0) ∧
  (∀ r, State.reset.reg r = 0) ∧ State.reset.i = 0 ∧ State.reset.pc = 0x200 ∧
  State.reset.sp.val = 0 ∧ (∀ k, (h : k < 16) → State.reset.stack[k] = 0) ∧
  State.reset.dt = 0 ∧ State.reset.st = 0 ∧ (∀ k, k < 2048 → cell State.reset.fb k = false) ∧
  State.reset.key = none ∧ State.reset.redraw = false ∧ State.reset.run = .ready ∧
  State.reset.fault = ⟨.none, 0, 0, 0⟩ ∧
  State.reset.out.soundOn = false ∧ State.reset.out.diag = none

/-- The invariant of Safety.lean holds after reset. Its clauses on I, the stack, the record and the quiet
outputs are R37(b), R37(d), R181, R184 and R85 (R37 is the spec's own derivation). That memory is in
canonical form is the model's choice (log 17), and that the error report is none after reset its
inference (log 7). -/
def Obligations.ResetMeetsInvariant : Prop := State.reset.Inv

/-! ### The cycle (40_cycle.md) -/

/-- R43: the fetch reads two consecutive bytes, the one at the lower address in bits 15-8; and an image
is loaded verbatim, so that two bytes of it are fetched as the opcode they spell. -/
def Obligations.FetchIsBigEndian : Prop :=
  (∀ s : State, s.pc.toNat ≤ 0xFFE → ∃ op : Word, s.fetch = .ok op ∧
    op.toNat = (s.mem.read s.pc.toNat).toNat * 256 + (s.mem.read (s.pc.toNat + 1)).toNat) ∧
  (∀ (s : State) (image : List Byte) (k : Nat) (h : k + 1 < image.length), image.length ≤ 3584 →
    s.pc.toNat = 0x200 + k → ∃ op : Word, (s.load image).2.fetch = .ok op ∧
      op.toNat = image[k].toNat * 256 + image[k + 1].toNat)

/-- R80, R82, R83, R84: when the word at `pc` decodes to an instruction, a READY core's step is `exec`
of it, and then the timer phase unless it raised (R86; that part is the spec's decision D13,
log 5). The outputs stand in the state until the next cycle (log 6). -/
def Obligations.StepRunsDecodedInstruction : Prop :=
  ∀ (s : State) (i : Instr), s.run = .ready → s.pc.toNat ≤ 0xFFE →
    decodeWord (wordOfBytes (s.mem.read s.pc.toNat) (s.mem.read (s.pc.toNat + 1))) = .ok i →
    (∀ t, exec i s = .next t → t.run = .ready → step s = .next { t with
      dt := if 0 < t.dt.toNat then t.dt - 1 else t.dt
      st := if 0 < t.st.toNat then t.st - 1 else t.st
      out := ⟨decide (t.st = 1), none, none⟩ }) ∧
    (∀ t, exec i s = .next t → t.run = .faulted → step s = .next t)

/-- R84: the timer phase of every cycle that does not raise, on the timer values `u` that its execute
phase left: an instruction's, or for an unknown word the state as it was (R87; the sticky bit is the
model's own, log 8). -/
def Obligations.TimerPhaseTicks : Prop :=
  ∀ s t : State, s.run = .ready → step s = .next t → t.run = .ready →
    ∃ (op : Word) (u : State), s.fetch = .ok op ∧
      ((∃ i, decodeWord op = .ok i ∧ exec i s = .next u) ∨
        ((∃ r, decodeWord op = .error r) ∧ u = { s with illegalSeen := true })) ∧
      (t.out.soundOn = true ↔ u.st.toNat = 1) ∧
      t.dt.toNat = (if u.dt.toNat > 0 then u.dt.toNat - 1 else 0) ∧
      t.st.toNat = (if u.st.toNat > 0 then u.st.toNat - 1 else 0) ∧
      t = { u with dt := t.dt, st := t.st, out := t.out }

/-- No state stops the model: every step answers a next state, a raise included (R187; that a raise is
a next state is the model's choice, log 5). -/
def Obligations.StepAlwaysAnswersNext : Prop := ∀ s : State, ∃ t, step s = .next t

/-- R87: an unknown word changes nothing but the timers, reports itself and leaves pc; the core stays
READY. The policy is the spec's decision D5; the sticky bit is the model's own (log 8). -/
def Obligations.UnknownOpcodeStalls : Prop :=
  ∀ (s : State) (op : Word) (r : Reject), s.run = .ready → s.fetch = .ok op →
    decodeWord op = .error r →
    ∃ t, step s = .next t ∧ t.dt.toNat = s.dt.toNat - 1 ∧ t.st.toNat = s.st.toNat - 1 ∧
      t.out = ⟨decide (s.st.toNat = 1), some ⟨s.pc, op⟩, none⟩ ∧ t.illegalSeen = true ∧
      t = { s with dt := t.dt, st := t.st, out := t.out, illegalSeen := t.illegalSeen }

/-- R87: the livelock. After any number of cycles at an unknown word the core is where it was, READY,
with the timers run down, reporting the same word every cycle. Rests on decision D5; the sticky bit is the model's own (log 8). -/
def Obligations.UnknownOpcodeLivelock : Prop :=
  ∀ (s : State) (op : Word) (r : Reject) (n : Nat), s.run = .ready → s.fetch = .ok op →
    decodeWord op = .error r →
    ∃ t : State, Host.Core.run Sys2Proof.core (n + 1) s = .next t ∧
      t.dt.toNat = s.dt.toNat - (n + 1) ∧ t.st.toNat = s.st.toNat - (n + 1) ∧
      t.out = ⟨decide (s.st.toNat = n + 1), some ⟨s.pc, op⟩, none⟩ ∧
      t = { s with dt := t.dt, st := t.st, out := t.out, illegalSeen := true }

/-- R46, R81, R184: a fetch that leaves the memory raises MemOutOfRange with the first of its two
addresses that is out of range and with `fop = 0`. The spec's decisions D12 and D13. -/
def Obligations.FetchPastEndRaises : Prop :=
  ∀ s : State, s.run = .ready → 0xFFE < s.pc.toNat →
    step s = .next (s.raise .memOutOfRange 0 (if s.pc.toNat = 0xFFF then 0x1000 else s.pc))

/-- R80, R86, R37(e): a cycle of a FAULTED core changes no state element; its `sound_on` and `diag` are
false and none. The spec's decisions D13 and D24. That its error report is none too is the model's
inference (log 7), and that the outputs stand in the state the model's choice (log 6). -/
def Obligations.FaultedCycleChangesNothing : Prop :=
  ∀ s : State, s.run = .faulted → step s = .next { s with out := ⟨false, none, none⟩ }

/-- R187: a cycle that raises keeps none of its writes, skips the timer phase, and records the pc, the
fetched opcode (0 when the fetch faulted) and one of the terminal codes; its report is that record.
The spec's decisions D11, D13 and D24. -/
def Obligations.RaisingCycleIsPrecise : Prop :=
  ∀ s t : State, s.run = .ready → step s = .next t → t.run = .faulted →
    t = { s with run := .faulted, fault := t.fault, out := t.out } ∧
    t.fault.fpc = s.pc ∧
    (∀ op, s.fetch = .ok op → t.fault.fop = op) ∧ (∀ a, s.fetch = .error a → t.fault.fop = 0) ∧
    (t.fault.code = .stackUnderflow ∨ t.fault.code = .stackOverflow ∨
      t.fault.code = .memOutOfRange) ∧
    t.out = ⟨false, none, some t.fault⟩

/-- R182, R183, R184, R189: an instruction raises exactly under its one condition, and the record
names it. The spec marks R189 as derived and the raise as decision D13. -/
def Obligations.InstructionRaisesExactlyWhen : Prop :=
  ∀ (i : Instr) (s : State) (code : ErrorCode), s.run = .ready →
    ((∃ t, exec i s = .next t ∧ t.run = .faulted ∧ t.fault.code = code) ↔ raisesWhen i s code)

/-- R84(a), (b), (c): in its own cycle `Fx15` has already lost 1; `Fx18` gives the edge exactly when it
wrote 1, and has lost 1; `Fx07` reads DT before the decrement. The spec marks these consequences as
derived. -/
def Obligations.TimerWritesInTheirCycle : Prop :=
  ∀ (s : State) (x : RegIdx), s.run = .ready →
    (s.fetch = .ok (encode (.ldDt x)) → ∃ t, step s = .next t ∧
      t.dt.toNat = (s.reg x).toNat - 1 ∧ t.pc = s.pc + 2) ∧
    (s.fetch = .ok (encode (.ldSt x)) → ∃ t, step s = .next t ∧
      t.st.toNat = (s.reg x).toNat - 1 ∧ (t.out.soundOn = true ↔ (s.reg x).toNat = 1) ∧
      t.pc = s.pc + 2) ∧
    (s.fetch = .ok (encode (.ldFromDt x)) → ∃ t, step s = .next t ∧
      t.reg x = s.dt ∧ t.dt.toNat = s.dt.toNat - 1 ∧ t.pc = s.pc + 2)

/-- R28, R85: in a cycle that does not raise and does not set ST, the pulse is reported exactly when
ST goes from 1 to 0; a cycle that raises reports none (decision D24). -/
def Obligations.SoundPulseOnOneToZero : Prop :=
  ∀ s t : State, s.run = .ready → step s = .next t →
    (t.run = .ready → (∀ x, s.fetch ≠ .ok (encode (.ldSt x))) →
      (t.out.soundOn = true ↔ s.st.toNat = 1 ∧ t.st.toNat = 0) ∧ t.st.toNat = s.st.toNat - 1) ∧
    (t.run = .faulted → t.out.soundOn = false)

/-! ### Control transfer (41_control.md) -/

/-- R100: RET pops the top entry into pc and leaves the entry in place; on an empty stack it raises
StackUnderflow and changes nothing. The count `sp` is the spec's decision D4, the raise D13. -/
def Obligations.ReturnPopsOrUnderflows : Prop :=
  ∀ (ign : Nibble) (s : State), encode (.ret ign) &&& 0xF0FF = (0x00EE : Word) ∧
    ((h : 0 < s.sp.val) → ∃ t, exec (.ret ign) s = .next t ∧ t.sp.val = s.sp.val - 1 ∧
      t.pc = s.stack[s.sp.val - 1]'(by omega) ∧ t = { s with sp := t.sp, pc := t.pc }) ∧
    (s.sp.val = 0 →
      exec (.ret ign) s = .next (s.raise .stackUnderflow (encode (.ret ign)) 0))

/-- R101: JP sets pc to `nnn` and does nothing else. The pattern is general knowledge (log 4). -/
def Obligations.JumpSetsPc : Prop :=
  ∀ (nnn : Addr) (s : State), encode (.jp nnn) &&& 0xF000 = (0x1000 : Word) ∧
    ∃ t, exec (.jp nnn) s = .next t ∧ t.pc.toNat = nnn.toNat ∧ t = { s with pc := t.pc }

/-- R102: CALL pushes `pc + 2` and jumps; on a full stack it raises StackOverflow and changes nothing.
The depth 16 is the spec's decision D3 (log 11), the raise D13. -/
def Obligations.CallPushesOrOverflows : Prop :=
  ∀ (nnn : Addr) (s : State), encode (.call nnn) &&& 0xF000 = (0x2000 : Word) ∧
    (s.sp.val < 16 → ∃ t, exec (.call nnn) s = .next t ∧ t.sp.val = s.sp.val + 1 ∧
      (∀ k, (h : k < 16) → t.stack[k] = if k = s.sp.val then s.pc + 2 else s.stack[k]) ∧
      t.pc.toNat = nnn.toNat ∧ t = { s with stack := t.stack, sp := t.sp, pc := t.pc }) ∧
    (s.sp.val = 16 →
      exec (.call nnn) s = .next (s.raise .stackOverflow (encode (.call nnn)) 0))

/-- R100, R102 (source §8): a call and then a return restore pc to the instruction after the call and
the stack pointer to its depth. Rests on decisions D3 and D4. -/
def Obligations.CallThenReturn : Prop :=
  ∀ (nnn : Addr) (ign : Nibble) (s : State), s.sp.val < 16 →
    ∃ t u, exec (.call nnn) s = .next t ∧ exec (.ret ign) t = .next u ∧ u.pc = s.pc + 2 ∧
      u.sp = s.sp ∧ (∀ k, (h : k < s.sp.val) → u.stack[k]'(by omega) = s.stack[k]'(by omega)) ∧
      u = { s with stack := u.stack, pc := u.pc }

/-- R103, R104: the skips on an immediate. The patterns are general knowledge (log 4). -/
def Obligations.SkipOnImmediate : Prop :=
  ∀ (x : RegIdx) (nn : Byte) (s : State),
    encode (.seImm x nn) &&& 0xF000 = (0x3000 : Word) ∧
    encode (.sneImm x nn) &&& 0xF000 = (0x4000 : Word) ∧
    exec (.seImm x nn) s = .next { s with pc := if s.reg x = nn then s.pc + 4 else s.pc + 2 } ∧
    exec (.sneImm x nn) s = .next { s with pc := if s.reg x ≠ nn then s.pc + 4 else s.pc + 2 }

/-- R105, R106: the skips on two registers, whatever the ignored bits (decision D6, log 9). The
patterns are general knowledge (log 4). -/
def Obligations.SkipOnRegisters : Prop :=
  ∀ (x y : RegIdx) (ign : Nibble) (s : State),
    encode (.seReg x y ign) &&& 0xF000 = (0x5000 : Word) ∧
    encode (.sneReg x y ign) &&& 0xF000 = (0x9000 : Word) ∧
    exec (.seReg x y ign) s
      = .next { s with pc := if s.reg x = s.reg y then s.pc + 4 else s.pc + 2 } ∧
    exec (.sneReg x y ign) s
      = .next { s with pc := if s.reg x ≠ s.reg y then s.pc + 4 else s.pc + 2 }

/-- R107: JP V0 adds V0 to BNNN_OFFSET of the full opcode, modulo 2^16; under the spec's default
offset, named here as a premise, the target is `V0 + nnn`, not reduced modulo 4096 (D7, log 2). The
pattern is general knowledge (log 4). -/
def Obligations.JumpWithOffset : Prop :=
  ∀ (nnn : Addr) (s : State), encode (.jpV0 nnn) &&& 0xF000 = (0xB000 : Word) ∧
    ∃ t, exec (.jpV0 nnn) s = .next t ∧
      t.pc.toNat
        = ((s.reg 0).toNat + (Config.bnnnOffset (encode (.jpV0 nnn))).toNat) % 65536 ∧
      (Config.ConventionalBnnn → t.pc.toNat = (s.reg 0).toNat + nnn.toNat) ∧
      t = { s with pc := t.pc }

/-! ### Loads and arithmetic (42_alu.md) -/

/-- R110: LD Vx, nn. -/
def Obligations.LoadImmediate : Prop :=
  ∀ (x : RegIdx) (nn : Byte) (s : State), encode (.ldImm x nn) &&& 0xF000 = (0x6000 : Word) ∧
    ∃ t, exec (.ldImm x nn) s = .next t ∧ t.reg x = nn ∧ (∀ r, r ≠ x → t.reg r = s.reg r) ∧
      t.pc = s.pc + 2 ∧ t = { s with v := t.v, pc := t.pc }

/-- R111: ADD Vx, nn wraps at 8 bits and changes no flag: VF changes only as the destination. -/
def Obligations.AddImmediateWraps : Prop :=
  ∀ (x : RegIdx) (nn : Byte) (s : State), encode (.addImm x nn) &&& 0xF000 = (0x7000 : Word) ∧
    ∃ t, exec (.addImm x nn) s = .next t ∧
      (t.reg x).toNat = ((s.reg x).toNat + nn.toNat) % 256 ∧
      (∀ r, r ≠ x → t.reg r = s.reg r) ∧ t.pc = s.pc + 2 ∧ t = { s with v := t.v, pc := t.pc }

/-- R112 to R115: LD, OR, AND, XOR of registers, bit by bit; VF is unchanged but as the destination
(decision D26). The sub-opcodes are general knowledge (log 4). -/
def Obligations.AssignAndLogic : Prop :=
  ∀ (x y : RegIdx) (s : State),
    encode (.ldReg x y) &&& 0xF00F = (0x8000 : Word) ∧
    encode (.orReg x y) &&& 0xF00F = (0x8001 : Word) ∧
    encode (.andReg x y) &&& 0xF00F = (0x8002 : Word) ∧
    encode (.xorReg x y) &&& 0xF00F = (0x8003 : Word) ∧
    ∀ (i : Instr) (f : Bool → Bool → Bool),
      (i, f) ∈ [(Instr.ldReg x y, fun _ b => b), (Instr.orReg x y, fun a b => a || b),
        (Instr.andReg x y, fun a b => a && b), (Instr.xorReg x y, fun a b => a != b)] →
      ∃ t, exec i s = .next t ∧
        (∀ k, k < 8 → (t.reg x).getLsbD k = f ((s.reg x).getLsbD k) ((s.reg y).getLsbD k)) ∧
        (∀ r, r ≠ x → t.reg r = s.reg r) ∧ t.pc = s.pc + 2 ∧ t = { s with v := t.v, pc := t.pc }

/-- R116: ADD Vx, Vy wraps, and VF is the carry out, also when it is the destination (the spec's
decision D9); no carry in. -/
def Obligations.AddRegistersCarry : Prop :=
  ∀ (x y : RegIdx) (s : State), encode (.addReg x y) &&& 0xF00F = (0x8004 : Word) ∧
    ∃ t, exec (.addReg x y) s = .next t ∧
      (x ≠ 15 → (t.reg x).toNat = ((s.reg x).toNat + (s.reg y).toNat) % 256) ∧
      (t.reg 15).toNat = (if (s.reg x).toNat + (s.reg y).toNat > 255 then 1 else 0) ∧
      (∀ r, r ≠ x → r ≠ 15 → t.reg r = s.reg r) ∧ t.pc = s.pc + 2 ∧
      t = { s with v := t.v, pc := t.pc }

/-- R117, R119: SUB and SUBN wrap, and VF is 1 exactly when no borrow occurred, also when it is the
destination (the spec's decision D9). The sub-opcodes are general knowledge (log 4). -/
def Obligations.SubtractBorrow : Prop :=
  ∀ (x y : RegIdx) (s : State),
    encode (.subReg x y) &&& 0xF00F = (0x8005 : Word) ∧
    encode (.subnReg x y) &&& 0xF00F = (0x8007 : Word) ∧
    ∀ (i : Instr) (a b : Nat),
      (i = .subReg x y ∧ a = (s.reg x).toNat ∧ b = (s.reg y).toNat) ∨
        (i = .subnReg x y ∧ a = (s.reg y).toNat ∧ b = (s.reg x).toNat) →
      ∃ t, exec i s = .next t ∧ (x ≠ 15 → (t.reg x).toNat = (a + 256 - b) % 256) ∧
        (t.reg 15).toNat = (if a ≥ b then 1 else 0) ∧
        (∀ r, r ≠ x → r ≠ 15 → t.reg r = s.reg r) ∧ t.pc = s.pc + 2 ∧
        t = { s with v := t.v, pc := t.pc }

/-- R118, R120: SHR and SHL shift V[x] by one, a zero entering, and VF is the dropped bit, also when it
is the destination. That V[x] is shifted is the spec's decision D8 (log 12), the order of the writes
D9; the sub-opcodes are general knowledge (log 4). -/
def Obligations.ShiftsDropIntoFlag : Prop :=
  ∀ (x y : RegIdx) (s : State),
    encode (.shr x y) &&& 0xF00F = (0x8006 : Word) ∧
    encode (.shl x y) &&& 0xF00F = (0x800E : Word) ∧
    (∃ t, exec (.shr x y) s = .next t ∧ (x ≠ 15 → (t.reg x).toNat = (s.reg x).toNat / 2) ∧
      (t.reg 15).toNat = (s.reg x).toNat % 2 ∧ (∀ r, r ≠ x → r ≠ 15 → t.reg r = s.reg r) ∧
      t.pc = s.pc + 2 ∧ t = { s with v := t.v, pc := t.pc }) ∧
    (∃ t, exec (.shl x y) s = .next t ∧ (x ≠ 15 → (t.reg x).toNat = (s.reg x).toNat * 2 % 256) ∧
      (t.reg 15).toNat = (s.reg x).toNat / 128 ∧ (∀ r, r ≠ x → r ≠ 15 → t.reg r = s.reg r) ∧
      t.pc = s.pc + 2 ∧ t = { s with v := t.v, pc := t.pc })

/-- R121: RND stores a drawn byte under the mask `nn`; the draw is a free value (D18, log 1), and for
every byte drawn the result is the same function of it. The pattern is general knowledge (log 4). -/
def Obligations.RandomUnderMask : Prop :=
  ∀ (x : RegIdx) (nn : Byte) (s : State), encode (.rnd x nn) &&& 0xF000 = (0xC000 : Word) ∧
    (∃ r, exec (.rnd x nn) s = .next (s.drawInto x nn r)) ∧
    (∀ r : Byte, ∃ t, s.drawInto x nn r = t ∧
      (∀ k, k < 8 → (t.reg x).getLsbD k = (r.getLsbD k && nn.getLsbD k)) ∧
      (∀ q, q ≠ x → t.reg q = s.reg q) ∧ t.pc = s.pc + 2 ∧
      t = { s with v := t.v, pc := t.pc, draws := t.draws })

/-! ### Address register and memory (43_index_memory.md) -/

/-- R130, R131, R132: LD I, ADD I (a silent wrap at 12 bits, decision D16) and LD F (the low nibble's
glyph). The patterns are general knowledge (log 4). -/
def Obligations.IndexRegisterWrites : Prop :=
  ∀ (nnn : Addr) (x : RegIdx) (s : State),
    encode (.ldI nnn) &&& 0xF000 = (0xA000 : Word) ∧
    encode (.addI x) &&& 0xF0FF = (0xF01E : Word) ∧
    encode (.ldFont x) &&& 0xF0FF = (0xF029 : Word) ∧
    ∀ (i : Instr) (value : Nat),
      (i = .ldI nnn ∧ value = nnn.toNat) ∨
        (i = .addI x ∧ value = (s.i.toNat + (s.reg x).toNat) % 4096) ∨
        (i = .ldFont x ∧ value = 5 * ((s.reg x).toNat % 16)) →
      ∃ t, exec i s = .next t ∧ t.i.toNat = value ∧ t.pc = s.pc + 2 ∧
        t = { s with i := t.i, pc := t.pc }

/-- R133: LD B stores hundreds, tens and units as one byte each at I, I+1, I+2 and leaves every other
byte and register. The pattern is general knowledge (log 4). -/
def Obligations.BcdDigitsStored : Prop :=
  ∀ (x : RegIdx) (s : State), encode (.ldBcd x) &&& 0xF0FF = (0xF033 : Word) ∧
    (s.i.toNat + 2 ≤ 0xFFF → ∃ t, exec (.ldBcd x) s = .next t ∧
      (t.mem.read s.i.toNat).toNat = (s.reg x).toNat / 100 ∧
      (t.mem.read (s.i.toNat + 1)).toNat = (s.reg x).toNat / 10 % 10 ∧
      (t.mem.read (s.i.toNat + 2)).toNat = (s.reg x).toNat % 10 ∧
      (∀ a, a < s.i.toNat ∨ s.i.toNat + 3 ≤ a → t.mem.read a = s.mem.read a) ∧
      t.pc = s.pc + 2 ∧ t = { s with mem := t.mem, pc := t.pc })

/-- R134: LD [I], Vx stores V0 to Vx at I to I+x, leaves every other byte, and leaves I (decision D25).
The pattern is general knowledge (log 4). -/
def Obligations.RegisterDump : Prop :=
  ∀ (x : RegIdx) (s : State), encode (.dumpRegs x) &&& 0xF0FF = (0xF055 : Word) ∧
    (s.i.toNat + x.val ≤ 0xFFF → ∃ t, exec (.dumpRegs x) s = .next t ∧
      (∀ r : RegIdx, r ≤ x → t.mem.read (s.i.toNat + r.val) = s.reg r) ∧
      (∀ a, a < s.i.toNat ∨ s.i.toNat + x.val + 1 ≤ a → t.mem.read a = s.mem.read a) ∧
      t.pc = s.pc + 2 ∧ t = { s with mem := t.mem, pc := t.pc })

/-- R135: LD Vx, [I] loads V0 to Vx from I to I+x, leaves the registers above x, and leaves I (decision
D25). The pattern is general knowledge (log 4). -/
def Obligations.RegisterLoad : Prop :=
  ∀ (x : RegIdx) (s : State), encode (.loadRegs x) &&& 0xF0FF = (0xF065 : Word) ∧
    (s.i.toNat + x.val ≤ 0xFFF → ∃ t, exec (.loadRegs x) s = .next t ∧
      (∀ r : RegIdx, r ≤ x → t.reg r = s.mem.read (s.i.toNat + r.val)) ∧
      (∀ r : RegIdx, x < r → t.reg r = s.reg r) ∧
      t.pc = s.pc + 2 ∧ t = { s with v := t.v, pc := t.pc })

/-- R42, R184: past 0xFFF the four memory instructions raise MemOutOfRange(0x1000), before anything is
written or loaded. The spec's decisions D11 and D13. -/
def Obligations.MemoryPastEndRaises : Prop :=
  ∀ (x y : RegIdx) (n : RowCount) (s : State),
    (0xFFF < s.i.toNat + 2 →
      exec (.ldBcd x) s = .next (s.raise .memOutOfRange (encode (.ldBcd x)) 0x1000)) ∧
    (0xFFF < s.i.toNat + x.val →
      exec (.dumpRegs x) s = .next (s.raise .memOutOfRange (encode (.dumpRegs x)) 0x1000) ∧
      exec (.loadRegs x) s = .next (s.raise .memOutOfRange (encode (.loadRegs x)) 0x1000)) ∧
    (0 < n.val → 0xFFF < s.i.toNat + n.val - 1 →
      exec (.drw x y n) s = .next (s.raise .memOutOfRange (encode (.drw x y n)) 0x1000))

/-- R53: a store by Fx55 is seen by the fetch of the very next cycle, when pc lies in the stored run.
The spec marks R53 as derived. -/
def Obligations.FetchSeesStoredBytes : Prop :=
  ∀ (x : RegIdx) (s t : State) (k : Nat) (h : k + 1 ≤ x.val), s.i.toNat + x.val ≤ 0xFFF →
    exec (.dumpRegs x) s = .next t → t.pc.toNat = s.i.toNat + k →
    t.fetch = .ok (wordOfBytes (s.reg ⟨k, by omega⟩) (s.reg ⟨k + 1, by omega⟩))

/-- Two memories in canonical form that read alike at every address are equal data: the model's own
form of R20's 4096 cells (log 17). -/
def Obligations.CanonicalMemoriesReadAlikeAreEqual : Prop :=
  ∀ m₁ m₂ : Memory, m₁.wf = true → m₂.wf = true → (∀ a, a < 4096 → m₁.read a = m₂.read a) → m₁ = m₂

/-! ### Display (44_display.md) -/

/-- R140: CLS clears all 2048 cells, sets the redraw flag and advances pc. The spec marks the flag on
an already clear screen as derived, and the ignored bits are its decision D6. -/
def Obligations.ClearDisplay : Prop :=
  ∀ (ign : Nibble) (s : State), encode (.cls ign) &&& 0xF0FF = (0x00E0 : Word) ∧
    ∃ t, exec (.cls ign) s = .next t ∧ (∀ k, k < 2048 → cell t.fb k = false) ∧ t.redraw = true ∧
      t.pc = s.pc + 2 ∧ t = { s with fb := t.fb, redraw := t.redraw, pc := t.pc }

/-- R141, R142, R143: DRW flips exactly the cells its set sprite bits land on, each coordinate wrapped;
VF is 1 exactly when one of them was lit; VF and redraw are always written. That the result does
not depend on the order of the pixels the spec marks as derived; that the coordinates are read
before VF is written is its decision D10. -/
def Obligations.DrawFlipsCoveredCells : Prop :=
  ∀ (x y : RegIdx) (n : RowCount) (s : State),
    encode (.drw x y n) &&& 0xF000 = (0xD000 : Word) ∧
    (n.val = 0 ∨ s.i.toNat + n.val - 1 ≤ 0xFFF → ∃ t, exec (.drw x y n) s = .next t ∧
      (∀ k, k < 2048 →
        (cell t.fb k = true ↔ ¬ (cell s.fb k = true ↔ spriteCovers s x y n k))) ∧
      ((∃ k, k < 2048 ∧ cell s.fb k = true ∧ spriteCovers s x y n k) → t.reg 15 = 1) ∧
      ((¬ ∃ k, k < 2048 ∧ cell s.fb k = true ∧ spriteCovers s x y n k) → t.reg 15 = 0) ∧
      (∀ r, r ≠ 15 → t.reg r = s.reg r) ∧ t.redraw = true ∧ t.pc = s.pc + 2 ∧
      t = { s with v := t.v, fb := t.fb, redraw := t.redraw, pc := t.pc })

/-- R141: the same sprite drawn twice at the same place restores the framebuffer, as its corner case (e)
says. The clause on the second draw's VF departs from the wording of (e), which gives 1 for any set bit:
it is the model's reading of R141's pseudocode (log 20, DEDUCED), a collision exactly when the sprite
covers a cell that was not lit before the first draw. The coordinates are not in VF, which the first
draw overwrites (R205). -/
def Obligations.DrawTwiceRestores : Prop :=
  ∀ (x y : RegIdx) (n : RowCount) (s : State), x ≠ 15 → y ≠ 15 →
    (n.val = 0 ∨ s.i.toNat + n.val - 1 ≤ 0xFFF) →
    ∃ t u, exec (.drw x y n) s = .next t ∧ exec (.drw x y n) t = .next u ∧ u.fb = s.fb ∧
      (u.reg 15 = 1 ↔ ∃ k, k < 2048 ∧ cell s.fb k = false ∧ spriteCovers s x y n k)

/-! ### Keys and timers (45_keys_timers.md) -/

/-- R150, R151: the key skips compare the whole register with the latched key; with no key latched SKP
never and SKNP always skips. The full width is the spec's decision D17; the patterns are general
knowledge (log 4). -/
def Obligations.KeySkips : Prop :=
  ∀ (x : RegIdx) (s : State),
    encode (.skp x) &&& 0xF0FF = (0xE09E : Word) ∧ encode (.sknp x) &&& 0xF0FF = (0xE0A1 : Word) ∧
    ((∃ k, s.key = some k ∧ k.toNat = (s.reg x).toNat) →
      exec (.skp x) s = .next { s with pc := s.pc + 4 } ∧
      exec (.sknp x) s = .next { s with pc := s.pc + 2 }) ∧
    ((¬ ∃ k, s.key = some k ∧ k.toNat = (s.reg x).toNat) →
      exec (.skp x) s = .next { s with pc := s.pc + 2 } ∧
      exec (.sknp x) s = .next { s with pc := s.pc + 4 })

/-- R152, R154, R155: the timer moves of the execute phase. The patterns are general knowledge
(log 4). -/
def Obligations.TimerRegisterMoves : Prop :=
  ∀ (x : RegIdx) (s : State),
    encode (.ldFromDt x) &&& 0xF0FF = (0xF007 : Word) ∧
    encode (.ldDt x) &&& 0xF0FF = (0xF015 : Word) ∧ encode (.ldSt x) &&& 0xF0FF = (0xF018 : Word) ∧
    (∃ t, exec (.ldFromDt x) s = .next t ∧ t.reg x = s.dt ∧ (∀ r, r ≠ x → t.reg r = s.reg r) ∧
      t.pc = s.pc + 2 ∧ t = { s with v := t.v, pc := t.pc }) ∧
    exec (.ldDt x) s = .next { s with dt := s.reg x, pc := s.pc + 2 } ∧
    exec (.ldSt x) s = .next { s with st := s.reg x, pc := s.pc + 2 }

/-- R153: with no key latched LD Vx, K writes nothing, pc included, so that a wait of any length is
ordinary cycles that leave everything but the timers and their pulse; with a key latched it stores the
key, advances pc and leaves the latch. -/
def Obligations.KeyWait : Prop :=
  ∀ (x : RegIdx) (s : State), encode (.ldKey x) &&& 0xF0FF = (0xF00A : Word) ∧
    (s.key = none → exec (.ldKey x) s = .next s) ∧
    (∀ k, s.key = some k → ∃ t, exec (.ldKey x) s = .next t ∧ (t.reg x).toNat = k.toNat ∧
      (∀ r, r ≠ x → t.reg r = s.reg r) ∧ t.pc = s.pc + 2 ∧ t = { s with v := t.v, pc := t.pc }) ∧
    (∀ n, s.run = .ready → s.key = none → s.fetch = .ok (encode (.ldKey x)) →
      ∃ t : State, Host.Core.run Sys2Proof.core n s = .next t ∧ t.dt.toNat = s.dt.toNat - n ∧
        t.st.toNat = s.st.toNat - n ∧ t = { s with dt := t.dt, st := t.st, out := t.out })

/-! ### Frames over all instructions (10_state.md R22, R38) -/

/-- R22, R38: an instruction changes no general register but those `writesReg` names; VF changes as a
flag only under the six instructions R22 lists. -/
def Obligations.RegisterFrame : Prop :=
  ∀ (i : Instr) (s t : State) (r : RegIdx), exec i s = .next t → ¬ writesReg i r → t.reg r = s.reg r

/-- R38, R55: an instruction changes no byte of memory outside the run it stores to, and only Fx33 and
Fx55 store; one that raises changes none (decision D11). -/
def Obligations.MemoryFrame : Prop :=
  ∀ (i : Instr) (s t : State), exec i s = .next t →
    (∀ a, a < (storedRun i s).1 ∨ (storedRun i s).1 + (storedRun i s).2 ≤ a →
      t.mem.read a = s.mem.read a) ∧
    (s.run = .ready → t.run = .faulted → ∀ a, t.mem.read a = s.mem.read a)

/-- R38: which instructions write I, the stack, DT, ST, the framebuffer and the redraw flag; no
instruction writes the key latch or the model's sticky bit; the draw counter is RND's; the run state,
the fault record and the outputs change in the execute phase only with a raise (decision D13). -/
def Obligations.SpecialStateFrame : Prop :=
  ∀ (i : Instr) (s t : State), exec i s = .next t →
    (t.i ≠ s.i → (∃ nnn, i = .ldI nnn) ∨ (∃ x, i = .addI x ∨ i = .ldFont x)) ∧
    (t.stack ≠ s.stack → ∃ nnn, i = .call nnn) ∧
    (t.sp ≠ s.sp → (∃ nnn, i = .call nnn) ∨ ∃ ign, i = .ret ign) ∧
    (t.dt ≠ s.dt → ∃ x, i = .ldDt x) ∧ (t.st ≠ s.st → ∃ x, i = .ldSt x) ∧
    (t.fb ≠ s.fb ∨ t.redraw ≠ s.redraw → (∃ ign, i = .cls ign) ∨ ∃ x y n, i = .drw x y n) ∧
    t.key = s.key ∧ t.illegalSeen = s.illegalSeen ∧
    (t.draws ≠ s.draws → ∃ x nn, i = .rnd x nn) ∧
    (t.run ≠ s.run ∨ t.fault ≠ s.fault ∨ t.out ≠ s.out →
      ∃ code, raisesWhen i s code ∧ t.run = .faulted ∧ t.fault.code = code)

/-- R24, R88: pc after an instruction: absolute for JP, CALL, RET and JP V0, a skip's 2 or 4 for the
six skips, unmoved for a key wait with no key and for a raise, `pc + 2` for all others. -/
def Obligations.ProgramCounterAfter : Prop :=
  ∀ (i : Instr) (s t : State), exec i s = .next t → s.run = .ready →
    (∀ ign, i ≠ .ret ign) → (∀ nnn, i ≠ .jp nnn ∧ i ≠ .call nnn ∧ i ≠ .jpV0 nnn) →
    (t.run = .faulted → t.pc = s.pc) ∧
    (t.run = .ready → t.pc = s.pc + 2 ∨ (t.pc = s.pc ∧ s.key = none ∧ ∃ x, i = .ldKey x) ∨
      (t.pc = s.pc + 4 ∧ ((∃ x nn, i = .seImm x nn ∨ i = .sneImm x nn) ∨
        (∃ x y ign, i = .seReg x y ign ∨ i = .sneReg x y ign) ∨ ∃ x, i = .skp x ∨ i = .sknp x)))

/-! ### Whole-machine properties -/

/-- R37 (which the spec marks as derived), R181, R184, R85: a step from any state that meets the
invariant of Safety.lean gives a state that meets it. That memory stays in canonical form is the model's
choice (log 17), its clause on the error report rests on log 7, and that a raise is a next state is
log 5. -/
def Obligations.StepKeepsInvariant : Prop :=
  ∀ s t : State, s.Inv → step s = .next t → t.Inv

/-- R37 (which the spec marks as derived), R51: every operation of the host keeps the invariant, so every
sequence of them does. That memory stays in canonical form is the model's choice (log 17), so are the
operations as functions between cycles (log 13), and the clause on the error report rests on log 7. -/
def Obligations.HostRunsKeepInvariant : Prop :=
  ∀ (ops : List HostOp) (s : State), s.Inv → ∃ t, runHost ops s = .next t ∧ t.Inv

/-- R37 (which the spec marks as derived), R38: ST, the redraw flag, the fault record, the outputs and
the model's sticky bit (log 8) can't be observed by a program: two READY states that differ in nothing
else step to states that differ in nothing else, and both raise the same record or neither raises. Both
steps take the same draw, because the model numbers draws by a counter the two states share (log 1, the
model's choice): for RND the statement compares two executions with one draw, while R121 lets two
executions draw different bytes. R37's run state is left out, since a FAULTED core runs no program. -/
def Obligations.HiddenStateDoesNotLeak : Prop :=
  ∀ (s : State) (st : Byte) (redraw : Bool) (fault : FaultRecord) (out : Outputs) (seen : Bool),
    s.run = .ready →
    ∃ t t', step s = .next t ∧
      step { s with st := st, redraw := redraw, fault := fault, out := out, illegalSeen := seen }
        = .next t' ∧
      (t.run = .ready → t.fault = s.fault ∧ t'.fault = fault) ∧
      (t.run = .faulted → t'.fault = t.fault) ∧
      t' = { t with st := t'.st, redraw := t'.redraw, fault := t'.fault, out := t'.out,
                    illegalSeen := t'.illegalSeen }

/-- R215: at `self: JP self`, after any number of cycles only DT and ST have changed, counting down to
0, and the pulse comes in the one cycle in which ST reaches 0. The convention is the spec's decision
D28. -/
def Obligations.SelfJumpOnlyCountsDown : Prop :=
  ∀ (s : State) (n : Nat), s.atSelfJump →
    ∃ t : State, Host.Core.run Sys2Proof.core (n + 1) s = .next t ∧
      t.dt.toNat = s.dt.toNat - (n + 1) ∧ t.st.toNat = s.st.toNat - (n + 1) ∧
      t.out = ⟨decide (s.st.toNat = n + 1), none, none⟩ ∧
      t = { s with dt := t.dt, st := t.st, out := t.out }

/-! ### The host's operations (50_host_interface.md) -/

/-- R162: `load` stores the whole image from 0x200 up and leaves every other byte and all else; an
image of more than 3584 bytes is rejected and changes nothing. -/
def Obligations.LoadStoresImageOrNothing : Prop :=
  ∀ (image : List Byte) (s : State),
    (3584 < image.length → s.load image = (.loadTooLarge image.length, s)) ∧
    (image.length ≤ 3584 → ∃ t, s.load image = (.ok, t) ∧
      (∀ k, (h : k < image.length) → t.mem.read (0x200 + k) = image[k]) ∧
      (∀ a, a < 0x200 ∨ 0x200 + image.length ≤ a → t.mem.read a = s.mem.read a) ∧
      t = { s with mem := t.mem })

/-- R164: `set_key_input` replaces the key latch, whatever was latched, and does nothing else. -/
def Obligations.SetKeyInputReplacesLatch : Prop :=
  ∀ (k : Option Nibble) (s : State), applyHostOp (.setKeyInput k) s = .next { s with key := k }

/-- R161, R165: `ack_redraw` clears the redraw flag alone; `reset` gives every element of R36 its value
from any state. The operations are the spec's decisions D19 and D22; the two fields that are the
model's own keep their value (log 16). -/
def Obligations.AckRedrawAndReset : Prop :=
  ∀ s : State, applyHostOp .ackRedraw s = .next { s with redraw := false } ∧
    applyHostOp .reset s
      = .next { State.reset with illegalSeen := s.illegalSeen, draws := s.draws }

/-- R86, R188: FAULTED and its record last until a reset: no other host operation changes either. The
spec's decision D13. -/
def Obligations.OnlyResetLeavesFaulted : Prop :=
  ∀ (op : HostOp) (s t : State), s.run = .faulted → op ≠ .reset → applyHostOp op s = .next t →
    t.run = .faulted ∧ t.fault = s.fault

/-- R30, R31: the key latch is written by `set_key_input` and reset alone, and a redraw flag once set
is cleared by `ack_redraw` (decision D19) and reset alone. -/
def Obligations.HostOwnsLatchAndRedraw : Prop :=
  ∀ (op : HostOp) (s t : State), op ≠ .reset → applyHostOp op s = .next t →
    ((∀ k, op ≠ .setKeyInput k) → t.key = s.key) ∧
    (op ≠ .ackRedraw → s.redraw = true → t.redraw = true)
end

