-- ==== Sys2Proof/Laws/Decode.lean ====
section
/-! SUPPORT. The fields of an assembled opcode, and an opcode rebuilt from its fields (R61). -/

namespace Sys2Proof

@[simp] theorem nibbleIdx_idxNibble (i : Fin 16) : nibbleIdx (idxNibble i) = i := by
  revert i; decide

@[simp] theorem idxNibble_nibbleIdx (b : Nibble) : idxNibble (nibbleIdx b) = b := by
  revert b; decide

/-! ### Opcodes and fields as numbers -/

theorem toNat_append_eq {m n : Nat} (a : BitVec m) (b : BitVec n) :
    (a ++ b).toNat = a.toNat * 2 ^ n + b.toNat := by
  rw [BitVec.toNat_append, ← Nat.shiftLeft_add_eq_or_of_lt b.isLt, Nat.shiftLeft_eq]

theorem toNat_ofNibbles (g x y n : Nibble) : (ofNibbles g x y n).toNat
    = g.toNat * 4096 + x.toNat * 256 + y.toNat * 16 + n.toNat := by
  have h : (ofNibbles g x y n).toNat = BitVec.toNat (((g ++ x) ++ y) ++ n) := rfl
  rw [h, toNat_append_eq, toNat_append_eq, toNat_append_eq]; omega

theorem toNat_ofXnn (g x : Nibble) (nn : Byte) :
    (ofXnn g x nn).toNat = g.toNat * 4096 + x.toNat * 256 + nn.toNat := by
  have h : (ofXnn g x nn).toNat = BitVec.toNat ((g ++ x) ++ nn) := rfl
  rw [h, toNat_append_eq, toNat_append_eq]; omega

theorem toNat_ofNnn (g : Nibble) (nnn : Addr) :
    (ofNnn g nnn).toNat = g.toNat * 4096 + nnn.toNat := by
  have h : (ofNnn g nnn).toNat = BitVec.toNat (g ++ nnn) := rfl
  rw [h, toNat_append_eq]; omega

theorem toNat_wordOfBytes (hi lo : Byte) :
    (wordOfBytes hi lo).toNat = hi.toNat * 256 + lo.toNat := by
  have h : (wordOfBytes hi lo).toNat = BitVec.toNat (hi ++ lo) := rfl
  rw [h, toNat_append_eq]; omega

theorem toNat_fieldGroup (op : Word) : (fieldGroup op).toNat = op.toNat / 4096 := by
  have := op.isLt
  simp [fieldGroup, BitVec.extractLsb', Nat.shiftRight_eq_div_pow]; omega

theorem toNat_fieldX (op : Word) : (fieldX op).toNat = op.toNat / 256 % 16 := by
  simp [fieldX, BitVec.extractLsb', Nat.shiftRight_eq_div_pow]

theorem toNat_fieldY (op : Word) : (fieldY op).toNat = op.toNat / 16 % 16 := by
  simp [fieldY, BitVec.extractLsb', Nat.shiftRight_eq_div_pow]

theorem toNat_fieldN (op : Word) : (fieldN op).toNat = op.toNat % 16 := by
  simp [fieldN, BitVec.extractLsb']

theorem toNat_fieldNn (op : Word) : (fieldNn op).toNat = op.toNat % 256 := by
  simp [fieldNn, BitVec.extractLsb']

theorem toNat_fieldNnn (op : Word) : (fieldNnn op).toNat = op.toNat % 4096 := by
  simp [fieldNnn, BitVec.extractLsb']

theorem toNat_highByte (op : Word) : (highByte op).toNat = op.toNat / 256 := by
  have := op.isLt
  simp [highByte, BitVec.extractLsb', Nat.shiftRight_eq_div_pow]; omega

theorem toNat_lowByte (op : Word) : (lowByte op).toNat = op.toNat % 256 := by
  simp [lowByte, BitVec.extractLsb']

/-! ### Fields of an assembled opcode -/

variable (g x y n : Nibble) (nn : Byte) (nnn : Addr) (op : Word)

@[simp] theorem fieldGroup_ofNibbles : fieldGroup (ofNibbles g x y n) = g := by
  apply BitVec.eq_of_toNat_eq; rw [toNat_fieldGroup, toNat_ofNibbles]; omega

@[simp] theorem fieldX_ofNibbles : fieldX (ofNibbles g x y n) = x := by
  apply BitVec.eq_of_toNat_eq; rw [toNat_fieldX, toNat_ofNibbles]; omega

@[simp] theorem fieldY_ofNibbles : fieldY (ofNibbles g x y n) = y := by
  apply BitVec.eq_of_toNat_eq; rw [toNat_fieldY, toNat_ofNibbles]; omega

@[simp] theorem fieldN_ofNibbles : fieldN (ofNibbles g x y n) = n := by
  apply BitVec.eq_of_toNat_eq; rw [toNat_fieldN, toNat_ofNibbles]; omega

@[simp] theorem fieldGroup_ofXnn : fieldGroup (ofXnn g x nn) = g := by
  apply BitVec.eq_of_toNat_eq; rw [toNat_fieldGroup, toNat_ofXnn]; omega

@[simp] theorem fieldX_ofXnn : fieldX (ofXnn g x nn) = x := by
  apply BitVec.eq_of_toNat_eq; rw [toNat_fieldX, toNat_ofXnn]; omega

@[simp] theorem fieldNn_ofXnn : fieldNn (ofXnn g x nn) = nn := by
  apply BitVec.eq_of_toNat_eq; rw [toNat_fieldNn, toNat_ofXnn]; omega

@[simp] theorem fieldGroup_ofNnn : fieldGroup (ofNnn g nnn) = g := by
  apply BitVec.eq_of_toNat_eq; rw [toNat_fieldGroup, toNat_ofNnn]; omega

@[simp] theorem fieldNnn_ofNnn : fieldNnn (ofNnn g nnn) = nnn := by
  apply BitVec.eq_of_toNat_eq; rw [toNat_fieldNnn, toNat_ofNnn]; omega

@[simp] theorem fieldY_ofXnn : fieldY (ofXnn g x nn) = nn.extractLsb' 4 4 := by
  apply BitVec.eq_of_toNat_eq
  rw [toNat_fieldY, toNat_ofXnn]
  simp [BitVec.extractLsb', Nat.shiftRight_eq_div_pow]; omega

@[simp] theorem fieldN_ofXnn : fieldN (ofXnn g x nn) = nn.extractLsb' 0 4 := by
  apply BitVec.eq_of_toNat_eq
  rw [toNat_fieldN, toNat_ofXnn]
  simp [BitVec.extractLsb']; omega

/-! ### The masks of the opcode table (R64) -/

theorem getLsbD_ofNibbles (g x y n : Nibble) (i : Nat) : (ofNibbles g x y n).getLsbD i =
    if i < 4 then n.getLsbD i else if i < 8 then y.getLsbD (i - 4)
    else if i < 12 then x.getLsbD (i - 8) else g.getLsbD (i - 12) := by
  have h : (ofNibbles g x y n).getLsbD i = BitVec.getLsbD (((g ++ x) ++ y) ++ n) i := rfl
  rw [h, BitVec.getLsbD_append, BitVec.getLsbD_append, BitVec.getLsbD_append]
  have e1 : i - 4 < 4 ↔ i < 8 := by omega
  have e2 : i - (4 + 4) < 4 ↔ i < 12 := by omega
  simp only [Nat.sub_sub, e1, e2]

theorem and_F000 : op &&& (0xF000 : Word) = ofNibbles (fieldGroup op) 0 0 0 := by
  apply BitVec.eq_of_getLsbD_eq
  intro i hi
  rw [getLsbD_ofNibbles]
  simp only [fieldGroup, BitVec.getLsbD_and, BitVec.getLsbD_extractLsb']
  interval_cases i <;> simp

theorem and_F00F : op &&& (0xF00F : Word) = ofNibbles (fieldGroup op) 0 0 (fieldN op) := by
  apply BitVec.eq_of_getLsbD_eq
  intro i hi
  rw [getLsbD_ofNibbles]
  simp only [fieldGroup, fieldN, BitVec.getLsbD_and, BitVec.getLsbD_extractLsb']
  interval_cases i <;> simp

theorem and_F0FF : op &&& (0xF0FF : Word) = ofNibbles (fieldGroup op) 0 (fieldY op) (fieldN op) := by
  apply BitVec.eq_of_getLsbD_eq
  intro i hi
  rw [getLsbD_ofNibbles]
  simp only [fieldGroup, fieldY, fieldN, BitVec.getLsbD_and, BitVec.getLsbD_extractLsb']
  interval_cases i <;> simp

/-! ### An opcode rebuilt from its fields and from its bytes -/

@[simp] theorem ofNibbles_fields :
    ofNibbles (fieldGroup op) (fieldX op) (fieldY op) (fieldN op) = op := by
  apply BitVec.eq_of_toNat_eq
  rw [toNat_ofNibbles, toNat_fieldGroup, toNat_fieldX, toNat_fieldY, toNat_fieldN]; omega

@[simp] theorem ofXnn_fields : ofXnn (fieldGroup op) (fieldX op) (fieldNn op) = op := by
  apply BitVec.eq_of_toNat_eq
  rw [toNat_ofXnn, toNat_fieldGroup, toNat_fieldX, toNat_fieldNn]; omega

@[simp] theorem ofNnn_fields : ofNnn (fieldGroup op) (fieldNnn op) = op := by
  apply BitVec.eq_of_toNat_eq
  rw [toNat_ofNnn, toNat_fieldGroup, toNat_fieldNnn]; omega

@[simp] theorem wordOfBytes_bytes : wordOfBytes (highByte op) (lowByte op) = op := by
  apply BitVec.eq_of_toNat_eq
  rw [toNat_wordOfBytes, toNat_highByte, toNat_lowByte]; omega

end Sys2Proof
end

