-- ==== Sys2Proof/Laws/Display.lean ====
section
/-! SUPPORT. The framebuffer's cells, and what drawing a sprite does to them (R29, R141, R142). -/

namespace Sys2Proof.Machine

/-! ### Cells -/

theorem cellIndex_lt (px py : Nat) : cellIndex px py < 2048 := by
  unfold cellIndex; omega

/-- Toggling a cell flips it and leaves every other cell alone. -/
theorem cell_toggleCell (f : Framebuffer) (k j : Nat) (hk : k < 2048) :
    cell (toggleCell f k) j = if j = k then !cell f k else cell f j := by
  by_cases hj : j < 2048
  · simp only [toggleCell, hk, dif_pos]
    by_cases hr : k / 64 = j / 64
    · by_cases hc : k % 64 = j % 64
      · have : j = k := by omega
        subst this
        simp [cell, hj]
      · have : j ≠ k := fun e => hc (by rw [e])
        simp [cell, hj, this, hr, hc]
    · have : j ≠ k := fun e => hr (by rw [e])
      simp [cell, hj, this, hr]
  · have : j ≠ k := by omega
    simp [cell, hj, this]

/-- A framebuffer is its 2048 cells. -/
theorem fb_ext {f g : Framebuffer} (h : ∀ k, k < 2048 → cell f k = cell g k) : f = g := by
  apply Vector.ext
  intro r hr
  apply Vector.ext
  intro c hc
  have := h (64 * r + c) (by omega)
  have hk : 64 * r + c < 2048 := by omega
  simp only [cell, hk, dif_pos] at this
  have e1 : (64 * r + c) / 64 = r := by omega
  have e2 : (64 * r + c) % 64 = c := by omega
  simpa [e1, e2] using this

/-- Every cell of a cleared framebuffer is 0. -/
@[simp] theorem cell_blankFb (k : Nat) : cell blankFb k = false := by
  simp [cell, blankFb]

/-! ### Drawing -/

/-- Pixels of a row at most 64 wide land on different cells. -/
theorem cellIndex_col_inj {vx py a b : Nat} (ha : a < 64) (hb : b < 64)
    (h : cellIndex (vx + a) py = cellIndex (vx + b) py) : a = b := by
  unfold cellIndex at h; omega

/-- Pixels of rows at most 32 apart land on different cells (R141(d)). -/
theorem cellIndex_row_ne {px px' vy a b : Nat} (ha : a < 32) (hb : b < 32) (h : a ≠ b) :
    cellIndex px (vy + a) ≠ cellIndex px' (vy + b) := by
  unfold cellIndex; omega

theorem exists_lt_succ {n : Nat} {P : Nat → Prop} :
    (∃ c, c < n + 1 ∧ P c) ↔ (∃ c, c < n ∧ P c) ∨ P n := by
  constructor
  · rintro ⟨c, h1, h2⟩
    by_cases e : c = n
    · subst e; exact .inr h2
    · exact .inl ⟨c, by omega, h2⟩
  · rintro (⟨c, h1, h2⟩ | h2)
    · exact ⟨c, by omega, h2⟩
    · exact ⟨n, by omega, h2⟩

/-- No earlier pixel of the row lies on the cell of column `n`. -/
theorem no_earlier_col {vx py n : Nat} {Q : Nat → Prop} (hn : n < 64) :
    ¬ ∃ c, c < n ∧ Q c ∧ cellIndex (vx + c) py = cellIndex (vx + n) py := by
  rintro ⟨c, h1, -, h3⟩
  have := cellIndex_col_inj (by omega) hn h3
  omega

open Classical in
/-- Drawing one row XORs exactly the cells of its set bits. -/
theorem Drawing.xorRow_cell (d : Drawing) (vx py : Nat) (b : Byte) (cols : Nat) (hc : cols ≤ 64)
    (k : Nat) : cell (d.xorRow vx py b cols).fb k =
      (cell d.fb k ^^ decide (∃ c, c < cols ∧ b.getLsbD (7 - c) = true ∧ cellIndex (vx + c) py = k)) := by
  induction cols with
  | zero => simp [Drawing.xorRow]
  | succ n ih =>
    have ih := ih (by omega)
    simp only [exists_lt_succ, Drawing.xorRow]
    by_cases hb : b.getLsbD (7 - n) = true
    · simp only [if_pos hb, Drawing.xorPixel, cell_toggleCell _ _ _ (cellIndex_lt _ _)]
      by_cases hk : k = cellIndex (vx + n) py
      · subst hk
        have hno := no_earlier_col (vx := vx) (py := py) (Q := fun c => b.getLsbD (7 - c) = true)
          (show n < 64 by omega)
        simp [ih, hno, hb]
      · have hne : ¬ cellIndex (vx + n) py = k := fun e => hk e.symm
        simp only [if_neg hk, ih, hne, and_false, or_false]
    · simp only [hb, Bool.false_eq_true, if_false, ih, false_and, or_false]

open Classical in
/-- Drawing one row reports a collision exactly when a cell of a set bit was lit. -/
theorem Drawing.xorRow_collision (d : Drawing) (vx py : Nat) (b : Byte) (cols : Nat)
    (hc : cols ≤ 64) : (d.xorRow vx py b cols).collision =
      (d.collision || decide (∃ c, c < cols ∧ b.getLsbD (7 - c) = true ∧
        cell d.fb (cellIndex (vx + c) py) = true)) := by
  induction cols with
  | zero => simp [Drawing.xorRow]
  | succ n ih =>
    have ih := ih (by omega)
    simp only [exists_lt_succ, Drawing.xorRow]
    by_cases hb : b.getLsbD (7 - n) = true
    · have hno := no_earlier_col (vx := vx) (py := py) (Q := fun c => b.getLsbD (7 - c) = true)
        (show n < 64 by omega)
      simp only [if_true, Drawing.xorPixel, ih, Drawing.xorRow_cell d vx py b n (by omega), hno, hb,
        decide_false, Bool.xor_false, true_and, Bool.decide_or, Bool.decide_eq_true, Bool.or_assoc]
    · simp only [hb, Bool.false_eq_true, if_false, ih, false_and, or_false]

/-- The sprite of row bytes `rows` at column `vx`, row `vy` covers cell `k`: some set bit of it lands
there, each coordinate reduced separately (R141, R142). -/
def covers (vx vy : Nat) (rows : List Byte) (k : Nat) : Prop :=
  ∃ r, ∃ h : r < rows.length, ∃ c, c < 8 ∧ rows[r].getLsbD (7 - c) = true ∧
    cellIndex (vx + c) (vy + r) = k

theorem covers_cons {vx vy : Nat} {b : Byte} {bs : List Byte} {k : Nat} :
    covers vx vy (b :: bs) k ↔
      (∃ c, c < 8 ∧ b.getLsbD (7 - c) = true ∧ cellIndex (vx + c) vy = k) ∨
        covers vx (vy + 1) bs k := by
  constructor
  · rintro ⟨r, h, c, h1, h2, h3⟩
    cases r with
    | zero => exact .inl ⟨c, h1, h2, h3⟩
    | succ r =>
      refine .inr ⟨r, by simpa using h, c, h1, h2, ?_⟩
      rw [← h3]; congr 1; omega
  · rintro (⟨c, h1, h2, h3⟩ | ⟨r, h, c, h1, h2, h3⟩)
    · exact ⟨0, by simp, c, h1, h2, h3⟩
    · refine ⟨r + 1, by simpa using h, c, h1, h2, ?_⟩
      rw [← h3]; congr 1; omega

open Classical in
/-- Drawing XORs exactly the covered cells, and reports a collision exactly when a covered cell was
lit: no two sprite bits land on the same cell (R141(d)). -/
theorem Drawing.xorRows_spec (rows : List Byte) : ∀ (d : Drawing) (vx vy : Nat), rows.length ≤ 32 →
    (∀ k, cell (d.xorRows vx vy rows).fb k = (cell d.fb k ^^ decide (covers vx vy rows k))) ∧
    (d.xorRows vx vy rows).collision =
      (d.collision || decide (∃ k, covers vx vy rows k ∧ cell d.fb k = true)) := by
  induction rows with
  | nil => intro d vx vy _; simp [Drawing.xorRows, covers]
  | cons b bs ih =>
    intro d vx vy hlen
    simp only [List.length_cons] at hlen
    obtain ⟨hcell, hcol⟩ := ih (d.xorRow vx vy b 8) vx (vy + 1) (by omega)
    have hdisj : ∀ k, (∃ c, c < 8 ∧ b.getLsbD (7 - c) = true ∧ cellIndex (vx + c) vy = k) →
        ¬ covers vx (vy + 1) bs k := by
      rintro k ⟨c, -, -, h3⟩ ⟨r, h, c', -, -, h3'⟩
      have h0 : cellIndex (vx + c) (vy + 0) = cellIndex (vx + c') (vy + (1 + r)) := by
        rw [Nat.add_zero, h3, ← h3']; congr 1; omega
      exact cellIndex_row_ne (by omega) (by omega) (by omega) h0
    constructor
    · intro k
      rw [Drawing.xorRows, hcell, Drawing.xorRow_cell d vx vy b 8 (by omega)]
      have := hdisj k
      by_cases h1 : ∃ c, c < 8 ∧ b.getLsbD (7 - c) = true ∧ cellIndex (vx + c) vy = k
      · have h2 := this h1
        simp [covers_cons, h1, h2]
      · by_cases h2 : covers vx (vy + 1) bs k <;> simp [covers_cons, h1, h2]
    · rw [Drawing.xorRows, hcol, Drawing.xorRow_collision d vx vy b 8 (by omega), Bool.or_assoc]
      congr 1
      rw [← Bool.decide_or, decide_eq_decide]
      constructor
      · rintro (⟨c, h1, h2, h3⟩ | ⟨k, h1, h2⟩)
        · exact ⟨_, covers_cons.mpr (.inl ⟨c, h1, h2, rfl⟩), h3⟩
        · refine ⟨k, covers_cons.mpr (.inr h1), ?_⟩
          rw [Drawing.xorRow_cell d vx vy b 8 (by omega)] at h2
          have : ¬ ∃ c, c < 8 ∧ b.getLsbD (7 - c) = true ∧ cellIndex (vx + c) vy = k :=
            fun h => hdisj k h h1
          simpa [this] using h2
      · rintro ⟨k, h1, h2⟩
        rcases covers_cons.mp h1 with ⟨c, h3, h4, rfl⟩ | h3
        · exact .inl ⟨c, h3, h4, h2⟩
        · refine .inr ⟨k, h3, ?_⟩
          rw [Drawing.xorRow_cell d vx vy b 8 (by omega)]
          have : ¬ ∃ c, c < 8 ∧ b.getLsbD (7 - c) = true ∧ cellIndex (vx + c) vy = k :=
            fun h => hdisj k h h3
          simpa [this] using h2

/-- What drawing a sprite does (R141). -/
theorem cell_drawSprite (f : Framebuffer) (vx vy : Nat) (rows : List Byte) (h : rows.length ≤ 32)
    (k : Nat) : cell (drawSprite f vx vy rows).fb k = true ↔
      ((cell f k = true ∧ ¬ covers vx vy rows k) ∨ (cell f k = false ∧ covers vx vy rows k)) := by
  classical
  rw [drawSprite, (Drawing.xorRows_spec rows ⟨f, false⟩ vx vy h).1 k]
  by_cases h2 : covers vx vy rows k <;> cases cell f k <;> simp [h2]

/-- When drawing a sprite reports a collision (R141). -/
theorem collision_drawSprite (f : Framebuffer) (vx vy : Nat) (rows : List Byte)
    (h : rows.length ≤ 32) : (drawSprite f vx vy rows).collision = true ↔
      ∃ k, covers vx vy rows k ∧ cell f k = true := by
  classical
  rw [drawSprite, (Drawing.xorRows_spec rows ⟨f, false⟩ vx vy h).2]
  simp

end Sys2Proof.Machine
end

