-- ==== Sys2Proof/Laws/Memory.lean ====
section
/-! SUPPORT. The laws of memory: a read after a write, every other address alone, and that each
operation keeps the canonical form. -/

namespace Sys2Proof.Machine

/-! ### Reading after writing -/

theorem Memory.read_insert (m : Memory) (a b : Nat) (v : Byte) :
    (Memory.insert a v m).read b = if b = a then v else m.read b := by
  induction m with
  | nil => simp [Memory.insert, Memory.read]
  | cons c m ih =>
    obtain ⟨d, w⟩ := c
    simp only [Memory.insert]
    split
    · simp [Memory.read]
    · split
      · next h1 h2 => subst h2; by_cases hb : b = a <;> simp [Memory.read, hb]
      · next h1 h2 =>
        by_cases hb : b = d
        · subst hb; simp [Memory.read, Ne.symm h2]
        · simp [Memory.read, hb, ih]

theorem Memory.read_erase (m : Memory) (a b : Nat) :
    (m.erase a).read b = if b = a then Memory.unlisted a else m.read b := by
  induction m with
  | nil => by_cases h : b = a <;> simp [Memory.erase, Memory.read, h]
  | cons c m ih =>
    obtain ⟨d, w⟩ := c
    simp only [Memory.erase] at ih
    by_cases hd : d = a
    · subst hd
      by_cases hb : b = d <;> simp_all [Memory.erase, Memory.read]
    · by_cases hb : b = d
      · subst hb; simp [Memory.erase, Memory.read, hd]
      · simp [Memory.erase, Memory.read, hd, hb, ih]

/-- A read after a write gives the value written at that address and leaves every other alone. -/
theorem Memory.read_write (m : Memory) (a b : Nat) (v : Byte) (ha : a < 4096) :
    (m.write a v).read b = if b = a then v else m.read b := by
  unfold Memory.write
  rw [if_neg (by omega)]
  split
  · next h => rw [Memory.read_erase, h]
  · rw [Memory.read_insert]

@[simp] theorem Memory.read_write_self (m : Memory) {a : Nat} (v : Byte) (ha : a < 4096) :
    (m.write a v).read a = v := by simp [Memory.read_write m a a v ha]

theorem Memory.read_write_of_ne (m : Memory) {a b : Nat} (v : Byte) (h : b ≠ a) :
    (m.write a v).read b = m.read b := by
  by_cases ha : a < 4096
  · simp [Memory.read_write m a b v ha, h]
  · simp [Memory.write, Nat.not_lt.mp ha]

/-- What a run of stores leaves at every address. -/
theorem Memory.read_writeBytes (bs : List Byte) :
    ∀ (m : Memory) (a b : Nat), a + bs.length ≤ 4096 →
      (m.writeBytes a bs).read b
        = if h : a ≤ b ∧ b < a + bs.length then bs[b - a]'(by omega) else m.read b := by
  induction bs with
  | nil => intro m a b _; simp [Memory.writeBytes]
  | cons v vs ih =>
    intro m a b hlen
    simp only [List.length_cons] at hlen ⊢
    rw [Memory.writeBytes, ih (m.write a v) (a + 1) b (by omega)]
    by_cases h1 : a + 1 ≤ b ∧ b < a + 1 + vs.length
    · have h2 : a ≤ b ∧ b < a + (vs.length + 1) := by omega
      rw [dif_pos h1, dif_pos h2]
      have h3 : b - a = (b - (a + 1)) + 1 := by omega
      simp [h3]
    · rw [dif_neg h1, Memory.read_write m a b v (by omega)]
      by_cases hb : b = a
      · subst hb; simp
      · rw [if_neg hb, dif_neg (by omega)]

/-- A run of stores leaves every address outside it alone. -/
theorem Memory.read_writeBytes_outside (m : Memory) (a b : Nat) (bs : List Byte)
    (h : b < a ∨ a + bs.length ≤ b) : (m.writeBytes a bs).read b = m.read b := by
  induction bs generalizing m a with
  | nil => rfl
  | cons v vs ih =>
    simp only [List.length_cons] at h
    rw [Memory.writeBytes, ih (m.write a v) (a + 1) (by omega),
      Memory.read_write_of_ne m v (by omega)]

@[simp] theorem Memory.length_readBytes (m : Memory) (n : Nat) :
    ∀ a, (m.readBytes a n).length = n := by
  induction n with
  | zero => intro a; rfl
  | succ n ih => intro a; simp [Memory.readBytes, ih]

theorem Memory.getElem_readBytes (m : Memory) (n : Nat) :
    ∀ (a k : Nat) (h : k < (m.readBytes a n).length), (m.readBytes a n)[k] = m.read (a + k) := by
  induction n with
  | zero => intro a k h; simp [Memory.readBytes] at h
  | succ n ih =>
    intro a k h
    cases k with
    | zero => simp [Memory.readBytes]
    | succ k =>
      simp only [Memory.readBytes, List.getElem_cons_succ, ih]
      congr 1; omega

/-- `MemRead` answers a byte exactly inside the address space (R42). -/
theorem memRead_eq_ok {m : Memory} {a : Nat} {b : Byte} :
    memRead m a = .ok b ↔ a < 4096 ∧ m.read a = b := by
  unfold memRead
  split <;> simp_all

/-- The registers a load fills, and those it leaves (R135). -/
theorem getElem_fillRegs (m : Memory) (a : Nat) (v : Vector Byte 16) (n k : Nat) (hk : k < 16) :
    (fillRegs m a v n)[k] = if k < n then m.read (a + k) else v[k] := by
  induction n with
  | zero => simp [fillRegs]
  | succ n ih =>
    simp only [fillRegs, Vector.getElem_setIfInBounds, ih]
    by_cases h : n = k
    · subst h; simp
    · by_cases h2 : k < n
      · simp [h, h2, Nat.lt_succ_of_lt h2]
      · have : ¬ k < n + 1 := by omega
        simp [h, h2, this]

/-! ### The canonical form -/

theorem Memory.wfFrom_cons {lo a : Nat} {v : Byte} {m : Memory} :
    Memory.wfFrom lo ((a, v) :: m) = true ↔
      lo ≤ a ∧ a < 4096 ∧ v ≠ Memory.unlisted a ∧ Memory.wfFrom (a + 1) m = true := by
  simp [Memory.wfFrom, and_assoc]

theorem Memory.wfFrom_mono {lo hi : Nat} {m : Memory} (h : lo ≤ hi)
    (hm : Memory.wfFrom hi m = true) : Memory.wfFrom lo m = true := by
  cases m with
  | nil => rfl
  | cons c m =>
    obtain ⟨a, v⟩ := c
    rw [Memory.wfFrom_cons] at hm ⊢
    exact ⟨by omega, hm.2⟩

theorem Memory.wfFrom_insert (m : Memory) (a : Nat) (v : Byte) (ha : a < 4096)
    (hv : v ≠ Memory.unlisted a) :
    ∀ lo, lo ≤ a → Memory.wfFrom lo m = true → Memory.wfFrom lo (Memory.insert a v m) = true := by
  induction m with
  | nil => intro lo hlo _; simp [Memory.insert, Memory.wfFrom, hlo, ha, hv]
  | cons c m ih =>
    obtain ⟨b, w⟩ := c
    intro lo hlo hm
    rw [Memory.wfFrom_cons] at hm
    obtain ⟨h1, h2, h3, h4⟩ := hm
    simp only [Memory.insert]
    split
    · next h =>
      rw [Memory.wfFrom_cons, Memory.wfFrom_cons]
      exact ⟨hlo, ha, hv, by omega, h2, h3, h4⟩
    · split
      · next h5 h6 => subst h6; rw [Memory.wfFrom_cons]; exact ⟨hlo, ha, hv, h4⟩
      · next h5 h6 =>
        rw [Memory.wfFrom_cons]
        exact ⟨h1, h2, h3, ih (b + 1) (by omega) h4⟩

theorem Memory.wfFrom_erase (m : Memory) (a : Nat) :
    ∀ lo, Memory.wfFrom lo m = true → Memory.wfFrom lo (m.erase a) = true := by
  induction m with
  | nil => intro lo _; rfl
  | cons c m ih =>
    obtain ⟨b, w⟩ := c
    intro lo hm
    rw [Memory.wfFrom_cons] at hm
    obtain ⟨h1, h2, h3, h4⟩ := hm
    have h5 := ih (b + 1) h4
    simp only [Memory.erase] at h5 ⊢
    rw [List.filter_cons]
    split
    · rw [Memory.wfFrom_cons]; exact ⟨h1, h2, h3, h5⟩
    · exact Memory.wfFrom_mono (by omega) h5

/-- A store keeps the canonical form. -/
theorem Memory.wf_write (m : Memory) (a : Nat) (v : Byte) (h : m.wf = true) :
    (m.write a v).wf = true := by
  unfold Memory.write
  split
  · exact h
  · split
    · exact Memory.wfFrom_erase m a 0 h
    · next h1 h2 => exact Memory.wfFrom_insert m a v (by omega) h2 0 (by omega) h

/-- A run of stores keeps the canonical form. -/
theorem Memory.wf_writeBytes (bs : List Byte) :
    ∀ (m : Memory) (a : Nat), m.wf = true → (m.writeBytes a bs).wf = true := by
  induction bs with
  | nil => intro m a h; exact h
  | cons v vs ih => intro m a h; exact ih _ _ (Memory.wf_write m a v h)

/-- Reset memory is in canonical form. -/
theorem reset_mem_wf : State.reset.mem.wf = true := rfl

end Sys2Proof.Machine
end

