-- ==== Sys2Proof/Laws/State.lean ====
section
/-! SUPPORT. One lemma per field per update of the state, true by `rfl`, so that no proof unfolds a
record update. -/

namespace Sys2Proof.Machine

variable (s : State)

/-! ### setReg -/

@[simp] theorem State.setReg_mem (r : RegIdx) (b : Byte) : (s.setReg r b).mem = s.mem := rfl
@[simp] theorem State.setReg_v (r : RegIdx) (b : Byte) : (s.setReg r b).v = s.v.set r.val b := rfl
@[simp] theorem State.setReg_i (r : RegIdx) (b : Byte) : (s.setReg r b).i = s.i := rfl
@[simp] theorem State.setReg_pc (r : RegIdx) (b : Byte) : (s.setReg r b).pc = s.pc := rfl
@[simp] theorem State.setReg_stack (r : RegIdx) (b : Byte) : (s.setReg r b).stack = s.stack := rfl
@[simp] theorem State.setReg_sp (r : RegIdx) (b : Byte) : (s.setReg r b).sp = s.sp := rfl
@[simp] theorem State.setReg_dt (r : RegIdx) (b : Byte) : (s.setReg r b).dt = s.dt := rfl
@[simp] theorem State.setReg_st (r : RegIdx) (b : Byte) : (s.setReg r b).st = s.st := rfl
@[simp] theorem State.setReg_fb (r : RegIdx) (b : Byte) : (s.setReg r b).fb = s.fb := rfl
@[simp] theorem State.setReg_key (r : RegIdx) (b : Byte) : (s.setReg r b).key = s.key := rfl
@[simp] theorem State.setReg_redraw (r : RegIdx) (b : Byte) : (s.setReg r b).redraw = s.redraw := rfl
@[simp] theorem State.setReg_run (r : RegIdx) (b : Byte) : (s.setReg r b).run = s.run := rfl
@[simp] theorem State.setReg_fault (r : RegIdx) (b : Byte) : (s.setReg r b).fault = s.fault := rfl
@[simp] theorem State.setReg_out (r : RegIdx) (b : Byte) : (s.setReg r b).out = s.out := rfl
@[simp] theorem State.setReg_illegalSeen (r : RegIdx) (b : Byte) : (s.setReg r b).illegalSeen = s.illegalSeen := rfl
@[simp] theorem State.setReg_draws (r : RegIdx) (b : Byte) : (s.setReg r b).draws = s.draws := rfl

/-! ### setI -/

@[simp] theorem State.setI_mem (w : Word) : (s.setI w).mem = s.mem := rfl
@[simp] theorem State.setI_v (w : Word) : (s.setI w).v = s.v := rfl
@[simp] theorem State.setI_i (w : Word) : (s.setI w).i = w := rfl
@[simp] theorem State.setI_pc (w : Word) : (s.setI w).pc = s.pc := rfl
@[simp] theorem State.setI_stack (w : Word) : (s.setI w).stack = s.stack := rfl
@[simp] theorem State.setI_sp (w : Word) : (s.setI w).sp = s.sp := rfl
@[simp] theorem State.setI_dt (w : Word) : (s.setI w).dt = s.dt := rfl
@[simp] theorem State.setI_st (w : Word) : (s.setI w).st = s.st := rfl
@[simp] theorem State.setI_fb (w : Word) : (s.setI w).fb = s.fb := rfl
@[simp] theorem State.setI_key (w : Word) : (s.setI w).key = s.key := rfl
@[simp] theorem State.setI_redraw (w : Word) : (s.setI w).redraw = s.redraw := rfl
@[simp] theorem State.setI_run (w : Word) : (s.setI w).run = s.run := rfl
@[simp] theorem State.setI_fault (w : Word) : (s.setI w).fault = s.fault := rfl
@[simp] theorem State.setI_out (w : Word) : (s.setI w).out = s.out := rfl
@[simp] theorem State.setI_illegalSeen (w : Word) : (s.setI w).illegalSeen = s.illegalSeen := rfl
@[simp] theorem State.setI_draws (w : Word) : (s.setI w).draws = s.draws := rfl
@[simp] theorem State.setI_reg (w : Word) (q : RegIdx) : (s.setI w).reg q = s.reg q := rfl

/-! ### setDt -/

@[simp] theorem State.setDt_mem (b : Byte) : (s.setDt b).mem = s.mem := rfl
@[simp] theorem State.setDt_v (b : Byte) : (s.setDt b).v = s.v := rfl
@[simp] theorem State.setDt_i (b : Byte) : (s.setDt b).i = s.i := rfl
@[simp] theorem State.setDt_pc (b : Byte) : (s.setDt b).pc = s.pc := rfl
@[simp] theorem State.setDt_stack (b : Byte) : (s.setDt b).stack = s.stack := rfl
@[simp] theorem State.setDt_sp (b : Byte) : (s.setDt b).sp = s.sp := rfl
@[simp] theorem State.setDt_dt (b : Byte) : (s.setDt b).dt = b := rfl
@[simp] theorem State.setDt_st (b : Byte) : (s.setDt b).st = s.st := rfl
@[simp] theorem State.setDt_fb (b : Byte) : (s.setDt b).fb = s.fb := rfl
@[simp] theorem State.setDt_key (b : Byte) : (s.setDt b).key = s.key := rfl
@[simp] theorem State.setDt_redraw (b : Byte) : (s.setDt b).redraw = s.redraw := rfl
@[simp] theorem State.setDt_run (b : Byte) : (s.setDt b).run = s.run := rfl
@[simp] theorem State.setDt_fault (b : Byte) : (s.setDt b).fault = s.fault := rfl
@[simp] theorem State.setDt_out (b : Byte) : (s.setDt b).out = s.out := rfl
@[simp] theorem State.setDt_illegalSeen (b : Byte) : (s.setDt b).illegalSeen = s.illegalSeen := rfl
@[simp] theorem State.setDt_draws (b : Byte) : (s.setDt b).draws = s.draws := rfl
@[simp] theorem State.setDt_reg (b : Byte) (q : RegIdx) : (s.setDt b).reg q = s.reg q := rfl

/-! ### setSt -/

@[simp] theorem State.setSt_mem (b : Byte) : (s.setSt b).mem = s.mem := rfl
@[simp] theorem State.setSt_v (b : Byte) : (s.setSt b).v = s.v := rfl
@[simp] theorem State.setSt_i (b : Byte) : (s.setSt b).i = s.i := rfl
@[simp] theorem State.setSt_pc (b : Byte) : (s.setSt b).pc = s.pc := rfl
@[simp] theorem State.setSt_stack (b : Byte) : (s.setSt b).stack = s.stack := rfl
@[simp] theorem State.setSt_sp (b : Byte) : (s.setSt b).sp = s.sp := rfl
@[simp] theorem State.setSt_dt (b : Byte) : (s.setSt b).dt = s.dt := rfl
@[simp] theorem State.setSt_st (b : Byte) : (s.setSt b).st = b := rfl
@[simp] theorem State.setSt_fb (b : Byte) : (s.setSt b).fb = s.fb := rfl
@[simp] theorem State.setSt_key (b : Byte) : (s.setSt b).key = s.key := rfl
@[simp] theorem State.setSt_redraw (b : Byte) : (s.setSt b).redraw = s.redraw := rfl
@[simp] theorem State.setSt_run (b : Byte) : (s.setSt b).run = s.run := rfl
@[simp] theorem State.setSt_fault (b : Byte) : (s.setSt b).fault = s.fault := rfl
@[simp] theorem State.setSt_out (b : Byte) : (s.setSt b).out = s.out := rfl
@[simp] theorem State.setSt_illegalSeen (b : Byte) : (s.setSt b).illegalSeen = s.illegalSeen := rfl
@[simp] theorem State.setSt_draws (b : Byte) : (s.setSt b).draws = s.draws := rfl
@[simp] theorem State.setSt_reg (b : Byte) (q : RegIdx) : (s.setSt b).reg q = s.reg q := rfl

/-! ### setFb -/

@[simp] theorem State.setFb_mem (f : Framebuffer) : (s.setFb f).mem = s.mem := rfl
@[simp] theorem State.setFb_v (f : Framebuffer) : (s.setFb f).v = s.v := rfl
@[simp] theorem State.setFb_i (f : Framebuffer) : (s.setFb f).i = s.i := rfl
@[simp] theorem State.setFb_pc (f : Framebuffer) : (s.setFb f).pc = s.pc := rfl
@[simp] theorem State.setFb_stack (f : Framebuffer) : (s.setFb f).stack = s.stack := rfl
@[simp] theorem State.setFb_sp (f : Framebuffer) : (s.setFb f).sp = s.sp := rfl
@[simp] theorem State.setFb_dt (f : Framebuffer) : (s.setFb f).dt = s.dt := rfl
@[simp] theorem State.setFb_st (f : Framebuffer) : (s.setFb f).st = s.st := rfl
@[simp] theorem State.setFb_fb (f : Framebuffer) : (s.setFb f).fb = f := rfl
@[simp] theorem State.setFb_key (f : Framebuffer) : (s.setFb f).key = s.key := rfl
@[simp] theorem State.setFb_redraw (f : Framebuffer) : (s.setFb f).redraw = true := rfl
@[simp] theorem State.setFb_run (f : Framebuffer) : (s.setFb f).run = s.run := rfl
@[simp] theorem State.setFb_fault (f : Framebuffer) : (s.setFb f).fault = s.fault := rfl
@[simp] theorem State.setFb_out (f : Framebuffer) : (s.setFb f).out = s.out := rfl
@[simp] theorem State.setFb_illegalSeen (f : Framebuffer) : (s.setFb f).illegalSeen = s.illegalSeen := rfl
@[simp] theorem State.setFb_draws (f : Framebuffer) : (s.setFb f).draws = s.draws := rfl
@[simp] theorem State.setFb_reg (f : Framebuffer) (q : RegIdx) : (s.setFb f).reg q = s.reg q := rfl

/-! ### setRegs -/

@[simp] theorem State.setRegs_mem (w : Vector Byte 16) : (s.setRegs w).mem = s.mem := rfl
@[simp] theorem State.setRegs_v (w : Vector Byte 16) : (s.setRegs w).v = w := rfl
@[simp] theorem State.setRegs_i (w : Vector Byte 16) : (s.setRegs w).i = s.i := rfl
@[simp] theorem State.setRegs_pc (w : Vector Byte 16) : (s.setRegs w).pc = s.pc := rfl
@[simp] theorem State.setRegs_stack (w : Vector Byte 16) : (s.setRegs w).stack = s.stack := rfl
@[simp] theorem State.setRegs_sp (w : Vector Byte 16) : (s.setRegs w).sp = s.sp := rfl
@[simp] theorem State.setRegs_dt (w : Vector Byte 16) : (s.setRegs w).dt = s.dt := rfl
@[simp] theorem State.setRegs_st (w : Vector Byte 16) : (s.setRegs w).st = s.st := rfl
@[simp] theorem State.setRegs_fb (w : Vector Byte 16) : (s.setRegs w).fb = s.fb := rfl
@[simp] theorem State.setRegs_key (w : Vector Byte 16) : (s.setRegs w).key = s.key := rfl
@[simp] theorem State.setRegs_redraw (w : Vector Byte 16) : (s.setRegs w).redraw = s.redraw := rfl
@[simp] theorem State.setRegs_run (w : Vector Byte 16) : (s.setRegs w).run = s.run := rfl
@[simp] theorem State.setRegs_fault (w : Vector Byte 16) : (s.setRegs w).fault = s.fault := rfl
@[simp] theorem State.setRegs_out (w : Vector Byte 16) : (s.setRegs w).out = s.out := rfl
@[simp] theorem State.setRegs_illegalSeen (w : Vector Byte 16) : (s.setRegs w).illegalSeen = s.illegalSeen := rfl
@[simp] theorem State.setRegs_draws (w : Vector Byte 16) : (s.setRegs w).draws = s.draws := rfl

/-! ### setMem -/

@[simp] theorem State.setMem_mem (m : Memory) : (s.setMem m).mem = m := rfl
@[simp] theorem State.setMem_v (m : Memory) : (s.setMem m).v = s.v := rfl
@[simp] theorem State.setMem_i (m : Memory) : (s.setMem m).i = s.i := rfl
@[simp] theorem State.setMem_pc (m : Memory) : (s.setMem m).pc = s.pc := rfl
@[simp] theorem State.setMem_stack (m : Memory) : (s.setMem m).stack = s.stack := rfl
@[simp] theorem State.setMem_sp (m : Memory) : (s.setMem m).sp = s.sp := rfl
@[simp] theorem State.setMem_dt (m : Memory) : (s.setMem m).dt = s.dt := rfl
@[simp] theorem State.setMem_st (m : Memory) : (s.setMem m).st = s.st := rfl
@[simp] theorem State.setMem_fb (m : Memory) : (s.setMem m).fb = s.fb := rfl
@[simp] theorem State.setMem_key (m : Memory) : (s.setMem m).key = s.key := rfl
@[simp] theorem State.setMem_redraw (m : Memory) : (s.setMem m).redraw = s.redraw := rfl
@[simp] theorem State.setMem_run (m : Memory) : (s.setMem m).run = s.run := rfl
@[simp] theorem State.setMem_fault (m : Memory) : (s.setMem m).fault = s.fault := rfl
@[simp] theorem State.setMem_out (m : Memory) : (s.setMem m).out = s.out := rfl
@[simp] theorem State.setMem_illegalSeen (m : Memory) : (s.setMem m).illegalSeen = s.illegalSeen := rfl
@[simp] theorem State.setMem_draws (m : Memory) : (s.setMem m).draws = s.draws := rfl
@[simp] theorem State.setMem_reg (m : Memory) (q : RegIdx) : (s.setMem m).reg q = s.reg q := rfl

/-! ### setPc -/

@[simp] theorem State.setPc_mem (w : Word) : (s.setPc w).mem = s.mem := rfl
@[simp] theorem State.setPc_v (w : Word) : (s.setPc w).v = s.v := rfl
@[simp] theorem State.setPc_i (w : Word) : (s.setPc w).i = s.i := rfl
@[simp] theorem State.setPc_pc (w : Word) : (s.setPc w).pc = w := rfl
@[simp] theorem State.setPc_stack (w : Word) : (s.setPc w).stack = s.stack := rfl
@[simp] theorem State.setPc_sp (w : Word) : (s.setPc w).sp = s.sp := rfl
@[simp] theorem State.setPc_dt (w : Word) : (s.setPc w).dt = s.dt := rfl
@[simp] theorem State.setPc_st (w : Word) : (s.setPc w).st = s.st := rfl
@[simp] theorem State.setPc_fb (w : Word) : (s.setPc w).fb = s.fb := rfl
@[simp] theorem State.setPc_key (w : Word) : (s.setPc w).key = s.key := rfl
@[simp] theorem State.setPc_redraw (w : Word) : (s.setPc w).redraw = s.redraw := rfl
@[simp] theorem State.setPc_run (w : Word) : (s.setPc w).run = s.run := rfl
@[simp] theorem State.setPc_fault (w : Word) : (s.setPc w).fault = s.fault := rfl
@[simp] theorem State.setPc_out (w : Word) : (s.setPc w).out = s.out := rfl
@[simp] theorem State.setPc_illegalSeen (w : Word) : (s.setPc w).illegalSeen = s.illegalSeen := rfl
@[simp] theorem State.setPc_draws (w : Word) : (s.setPc w).draws = s.draws := rfl
@[simp] theorem State.setPc_reg (w : Word) (q : RegIdx) : (s.setPc w).reg q = s.reg q := rfl

/-! ### advance -/

@[simp] theorem State.advance_mem : (s.advance).mem = s.mem := rfl
@[simp] theorem State.advance_v : (s.advance).v = s.v := rfl
@[simp] theorem State.advance_i : (s.advance).i = s.i := rfl
@[simp] theorem State.advance_pc : (s.advance).pc = s.pc + 2 := rfl
@[simp] theorem State.advance_stack : (s.advance).stack = s.stack := rfl
@[simp] theorem State.advance_sp : (s.advance).sp = s.sp := rfl
@[simp] theorem State.advance_dt : (s.advance).dt = s.dt := rfl
@[simp] theorem State.advance_st : (s.advance).st = s.st := rfl
@[simp] theorem State.advance_fb : (s.advance).fb = s.fb := rfl
@[simp] theorem State.advance_key : (s.advance).key = s.key := rfl
@[simp] theorem State.advance_redraw : (s.advance).redraw = s.redraw := rfl
@[simp] theorem State.advance_run : (s.advance).run = s.run := rfl
@[simp] theorem State.advance_fault : (s.advance).fault = s.fault := rfl
@[simp] theorem State.advance_out : (s.advance).out = s.out := rfl
@[simp] theorem State.advance_illegalSeen : (s.advance).illegalSeen = s.illegalSeen := rfl
@[simp] theorem State.advance_draws : (s.advance).draws = s.draws := rfl
@[simp] theorem State.advance_reg (q : RegIdx) : (s.advance).reg q = s.reg q := rfl

/-! ### skipIf -/

@[simp] theorem State.skipIf_mem (c : Bool) : (s.skipIf c).mem = s.mem := rfl
@[simp] theorem State.skipIf_v (c : Bool) : (s.skipIf c).v = s.v := rfl
@[simp] theorem State.skipIf_i (c : Bool) : (s.skipIf c).i = s.i := rfl
@[simp] theorem State.skipIf_pc (c : Bool) : (s.skipIf c).pc = if c then s.pc + 4 else s.pc + 2 := rfl
@[simp] theorem State.skipIf_stack (c : Bool) : (s.skipIf c).stack = s.stack := rfl
@[simp] theorem State.skipIf_sp (c : Bool) : (s.skipIf c).sp = s.sp := rfl
@[simp] theorem State.skipIf_dt (c : Bool) : (s.skipIf c).dt = s.dt := rfl
@[simp] theorem State.skipIf_st (c : Bool) : (s.skipIf c).st = s.st := rfl
@[simp] theorem State.skipIf_fb (c : Bool) : (s.skipIf c).fb = s.fb := rfl
@[simp] theorem State.skipIf_key (c : Bool) : (s.skipIf c).key = s.key := rfl
@[simp] theorem State.skipIf_redraw (c : Bool) : (s.skipIf c).redraw = s.redraw := rfl
@[simp] theorem State.skipIf_run (c : Bool) : (s.skipIf c).run = s.run := rfl
@[simp] theorem State.skipIf_fault (c : Bool) : (s.skipIf c).fault = s.fault := rfl
@[simp] theorem State.skipIf_out (c : Bool) : (s.skipIf c).out = s.out := rfl
@[simp] theorem State.skipIf_illegalSeen (c : Bool) : (s.skipIf c).illegalSeen = s.illegalSeen := rfl
@[simp] theorem State.skipIf_draws (c : Bool) : (s.skipIf c).draws = s.draws := rfl
@[simp] theorem State.skipIf_reg (c : Bool) (q : RegIdx) : (s.skipIf c).reg q = s.reg q := rfl

/-! ### raise -/

@[simp] theorem State.raise_mem (c : ErrorCode) (op a : Word) : (s.raise c op a).mem = s.mem := rfl
@[simp] theorem State.raise_v (c : ErrorCode) (op a : Word) : (s.raise c op a).v = s.v := rfl
@[simp] theorem State.raise_i (c : ErrorCode) (op a : Word) : (s.raise c op a).i = s.i := rfl
@[simp] theorem State.raise_pc (c : ErrorCode) (op a : Word) : (s.raise c op a).pc = s.pc := rfl
@[simp] theorem State.raise_stack (c : ErrorCode) (op a : Word) : (s.raise c op a).stack = s.stack := rfl
@[simp] theorem State.raise_sp (c : ErrorCode) (op a : Word) : (s.raise c op a).sp = s.sp := rfl
@[simp] theorem State.raise_dt (c : ErrorCode) (op a : Word) : (s.raise c op a).dt = s.dt := rfl
@[simp] theorem State.raise_st (c : ErrorCode) (op a : Word) : (s.raise c op a).st = s.st := rfl
@[simp] theorem State.raise_fb (c : ErrorCode) (op a : Word) : (s.raise c op a).fb = s.fb := rfl
@[simp] theorem State.raise_key (c : ErrorCode) (op a : Word) : (s.raise c op a).key = s.key := rfl
@[simp] theorem State.raise_redraw (c : ErrorCode) (op a : Word) : (s.raise c op a).redraw = s.redraw := rfl
@[simp] theorem State.raise_run (c : ErrorCode) (op a : Word) : (s.raise c op a).run = .faulted := rfl
@[simp] theorem State.raise_fault (c : ErrorCode) (op a : Word) : (s.raise c op a).fault = ⟨c, s.pc, op, a⟩ := rfl
@[simp] theorem State.raise_out (c : ErrorCode) (op a : Word) : (s.raise c op a).out = ⟨false, none, some ⟨c, s.pc, op, a⟩⟩ := rfl
@[simp] theorem State.raise_illegalSeen (c : ErrorCode) (op a : Word) : (s.raise c op a).illegalSeen = s.illegalSeen := rfl
@[simp] theorem State.raise_draws (c : ErrorCode) (op a : Word) : (s.raise c op a).draws = s.draws := rfl
@[simp] theorem State.raise_reg (c : ErrorCode) (op a : Word) (q : RegIdx) : (s.raise c op a).reg q = s.reg q := rfl

/-! ### storeBytes -/

@[simp] theorem State.storeBytes_mem (a : Nat) (bs : List Byte) : (s.storeBytes a bs).mem = s.mem.writeBytes a bs := rfl
@[simp] theorem State.storeBytes_v (a : Nat) (bs : List Byte) : (s.storeBytes a bs).v = s.v := rfl
@[simp] theorem State.storeBytes_i (a : Nat) (bs : List Byte) : (s.storeBytes a bs).i = s.i := rfl
@[simp] theorem State.storeBytes_pc (a : Nat) (bs : List Byte) : (s.storeBytes a bs).pc = s.pc := rfl
@[simp] theorem State.storeBytes_stack (a : Nat) (bs : List Byte) : (s.storeBytes a bs).stack = s.stack := rfl
@[simp] theorem State.storeBytes_sp (a : Nat) (bs : List Byte) : (s.storeBytes a bs).sp = s.sp := rfl
@[simp] theorem State.storeBytes_dt (a : Nat) (bs : List Byte) : (s.storeBytes a bs).dt = s.dt := rfl
@[simp] theorem State.storeBytes_st (a : Nat) (bs : List Byte) : (s.storeBytes a bs).st = s.st := rfl
@[simp] theorem State.storeBytes_fb (a : Nat) (bs : List Byte) : (s.storeBytes a bs).fb = s.fb := rfl
@[simp] theorem State.storeBytes_key (a : Nat) (bs : List Byte) : (s.storeBytes a bs).key = s.key := rfl
@[simp] theorem State.storeBytes_redraw (a : Nat) (bs : List Byte) : (s.storeBytes a bs).redraw = s.redraw := rfl
@[simp] theorem State.storeBytes_run (a : Nat) (bs : List Byte) : (s.storeBytes a bs).run = s.run := rfl
@[simp] theorem State.storeBytes_fault (a : Nat) (bs : List Byte) : (s.storeBytes a bs).fault = s.fault := rfl
@[simp] theorem State.storeBytes_out (a : Nat) (bs : List Byte) : (s.storeBytes a bs).out = s.out := rfl
@[simp] theorem State.storeBytes_illegalSeen (a : Nat) (bs : List Byte) : (s.storeBytes a bs).illegalSeen = s.illegalSeen := rfl
@[simp] theorem State.storeBytes_draws (a : Nat) (bs : List Byte) : (s.storeBytes a bs).draws = s.draws := rfl
@[simp] theorem State.storeBytes_reg (a : Nat) (bs : List Byte) (q : RegIdx) : (s.storeBytes a bs).reg q = s.reg q := rfl

/-! ### setResultFlag -/

@[simp] theorem State.setResultFlag_mem (x : RegIdx) (b : Byte) (f : Bool) : (s.setResultFlag x b f).mem = s.mem := rfl
@[simp] theorem State.setResultFlag_v (x : RegIdx) (b : Byte) (f : Bool) : (s.setResultFlag x b f).v = (s.v.set x.val b).set vF.val (flagByte f) := rfl
@[simp] theorem State.setResultFlag_i (x : RegIdx) (b : Byte) (f : Bool) : (s.setResultFlag x b f).i = s.i := rfl
@[simp] theorem State.setResultFlag_pc (x : RegIdx) (b : Byte) (f : Bool) : (s.setResultFlag x b f).pc = s.pc := rfl
@[simp] theorem State.setResultFlag_stack (x : RegIdx) (b : Byte) (f : Bool) : (s.setResultFlag x b f).stack = s.stack := rfl
@[simp] theorem State.setResultFlag_sp (x : RegIdx) (b : Byte) (f : Bool) : (s.setResultFlag x b f).sp = s.sp := rfl
@[simp] theorem State.setResultFlag_dt (x : RegIdx) (b : Byte) (f : Bool) : (s.setResultFlag x b f).dt = s.dt := rfl
@[simp] theorem State.setResultFlag_st (x : RegIdx) (b : Byte) (f : Bool) : (s.setResultFlag x b f).st = s.st := rfl
@[simp] theorem State.setResultFlag_fb (x : RegIdx) (b : Byte) (f : Bool) : (s.setResultFlag x b f).fb = s.fb := rfl
@[simp] theorem State.setResultFlag_key (x : RegIdx) (b : Byte) (f : Bool) : (s.setResultFlag x b f).key = s.key := rfl
@[simp] theorem State.setResultFlag_redraw (x : RegIdx) (b : Byte) (f : Bool) : (s.setResultFlag x b f).redraw = s.redraw := rfl
@[simp] theorem State.setResultFlag_run (x : RegIdx) (b : Byte) (f : Bool) : (s.setResultFlag x b f).run = s.run := rfl
@[simp] theorem State.setResultFlag_fault (x : RegIdx) (b : Byte) (f : Bool) : (s.setResultFlag x b f).fault = s.fault := rfl
@[simp] theorem State.setResultFlag_out (x : RegIdx) (b : Byte) (f : Bool) : (s.setResultFlag x b f).out = s.out := rfl
@[simp] theorem State.setResultFlag_illegalSeen (x : RegIdx) (b : Byte) (f : Bool) : (s.setResultFlag x b f).illegalSeen = s.illegalSeen := rfl
@[simp] theorem State.setResultFlag_draws (x : RegIdx) (b : Byte) (f : Bool) : (s.setResultFlag x b f).draws = s.draws := rfl

/-! ### drawInto -/

@[simp] theorem State.drawInto_mem (x : RegIdx) (nn b : Byte) : (s.drawInto x nn b).mem = s.mem := rfl
@[simp] theorem State.drawInto_v (x : RegIdx) (nn b : Byte) : (s.drawInto x nn b).v = s.v.set x.val (b &&& nn) := rfl
@[simp] theorem State.drawInto_i (x : RegIdx) (nn b : Byte) : (s.drawInto x nn b).i = s.i := rfl
@[simp] theorem State.drawInto_pc (x : RegIdx) (nn b : Byte) : (s.drawInto x nn b).pc = s.pc + 2 := rfl
@[simp] theorem State.drawInto_stack (x : RegIdx) (nn b : Byte) : (s.drawInto x nn b).stack = s.stack := rfl
@[simp] theorem State.drawInto_sp (x : RegIdx) (nn b : Byte) : (s.drawInto x nn b).sp = s.sp := rfl
@[simp] theorem State.drawInto_dt (x : RegIdx) (nn b : Byte) : (s.drawInto x nn b).dt = s.dt := rfl
@[simp] theorem State.drawInto_st (x : RegIdx) (nn b : Byte) : (s.drawInto x nn b).st = s.st := rfl
@[simp] theorem State.drawInto_fb (x : RegIdx) (nn b : Byte) : (s.drawInto x nn b).fb = s.fb := rfl
@[simp] theorem State.drawInto_key (x : RegIdx) (nn b : Byte) : (s.drawInto x nn b).key = s.key := rfl
@[simp] theorem State.drawInto_redraw (x : RegIdx) (nn b : Byte) : (s.drawInto x nn b).redraw = s.redraw := rfl
@[simp] theorem State.drawInto_run (x : RegIdx) (nn b : Byte) : (s.drawInto x nn b).run = s.run := rfl
@[simp] theorem State.drawInto_fault (x : RegIdx) (nn b : Byte) : (s.drawInto x nn b).fault = s.fault := rfl
@[simp] theorem State.drawInto_out (x : RegIdx) (nn b : Byte) : (s.drawInto x nn b).out = s.out := rfl
@[simp] theorem State.drawInto_illegalSeen (x : RegIdx) (nn b : Byte) : (s.drawInto x nn b).illegalSeen = s.illegalSeen := rfl
@[simp] theorem State.drawInto_draws (x : RegIdx) (nn b : Byte) : (s.drawInto x nn b).draws = s.draws + 1 := rfl

/-! ### timers -/

@[simp] theorem State.timers_mem (d : Option IllegalOpcode) : (s.timers d).mem = s.mem := rfl
@[simp] theorem State.timers_v (d : Option IllegalOpcode) : (s.timers d).v = s.v := rfl
@[simp] theorem State.timers_i (d : Option IllegalOpcode) : (s.timers d).i = s.i := rfl
@[simp] theorem State.timers_pc (d : Option IllegalOpcode) : (s.timers d).pc = s.pc := rfl
@[simp] theorem State.timers_stack (d : Option IllegalOpcode) : (s.timers d).stack = s.stack := rfl
@[simp] theorem State.timers_sp (d : Option IllegalOpcode) : (s.timers d).sp = s.sp := rfl
@[simp] theorem State.timers_dt (d : Option IllegalOpcode) : (s.timers d).dt = tick s.dt := rfl
@[simp] theorem State.timers_st (d : Option IllegalOpcode) : (s.timers d).st = tick s.st := rfl
@[simp] theorem State.timers_fb (d : Option IllegalOpcode) : (s.timers d).fb = s.fb := rfl
@[simp] theorem State.timers_key (d : Option IllegalOpcode) : (s.timers d).key = s.key := rfl
@[simp] theorem State.timers_redraw (d : Option IllegalOpcode) : (s.timers d).redraw = s.redraw := rfl
@[simp] theorem State.timers_run (d : Option IllegalOpcode) : (s.timers d).run = s.run := rfl
@[simp] theorem State.timers_fault (d : Option IllegalOpcode) : (s.timers d).fault = s.fault := rfl
@[simp] theorem State.timers_out (d : Option IllegalOpcode) : (s.timers d).out = ⟨s.st == 1, d, none⟩ := rfl
@[simp] theorem State.timers_illegalSeen (d : Option IllegalOpcode) : (s.timers d).illegalSeen = s.illegalSeen := rfl
@[simp] theorem State.timers_draws (d : Option IllegalOpcode) : (s.timers d).draws = s.draws := rfl
@[simp] theorem State.timers_reg (d : Option IllegalOpcode) (q : RegIdx) : (s.timers d).reg q = s.reg q := rfl

/-! ### unknownOpcode -/

@[simp] theorem State.unknownOpcode_mem (op : Word) : (s.unknownOpcode op).mem = s.mem := rfl
@[simp] theorem State.unknownOpcode_v (op : Word) : (s.unknownOpcode op).v = s.v := rfl
@[simp] theorem State.unknownOpcode_i (op : Word) : (s.unknownOpcode op).i = s.i := rfl
@[simp] theorem State.unknownOpcode_pc (op : Word) : (s.unknownOpcode op).pc = s.pc := rfl
@[simp] theorem State.unknownOpcode_stack (op : Word) : (s.unknownOpcode op).stack = s.stack := rfl
@[simp] theorem State.unknownOpcode_sp (op : Word) : (s.unknownOpcode op).sp = s.sp := rfl
@[simp] theorem State.unknownOpcode_dt (op : Word) : (s.unknownOpcode op).dt = tick s.dt := rfl
@[simp] theorem State.unknownOpcode_st (op : Word) : (s.unknownOpcode op).st = tick s.st := rfl
@[simp] theorem State.unknownOpcode_fb (op : Word) : (s.unknownOpcode op).fb = s.fb := rfl
@[simp] theorem State.unknownOpcode_key (op : Word) : (s.unknownOpcode op).key = s.key := rfl
@[simp] theorem State.unknownOpcode_redraw (op : Word) : (s.unknownOpcode op).redraw = s.redraw := rfl
@[simp] theorem State.unknownOpcode_run (op : Word) : (s.unknownOpcode op).run = s.run := rfl
@[simp] theorem State.unknownOpcode_fault (op : Word) : (s.unknownOpcode op).fault = s.fault := rfl
@[simp] theorem State.unknownOpcode_out (op : Word) : (s.unknownOpcode op).out = ⟨s.st == 1, some ⟨s.pc, op⟩, none⟩ := rfl
@[simp] theorem State.unknownOpcode_illegalSeen (op : Word) : (s.unknownOpcode op).illegalSeen = true := rfl
@[simp] theorem State.unknownOpcode_draws (op : Word) : (s.unknownOpcode op).draws = s.draws := rfl
@[simp] theorem State.unknownOpcode_reg (op : Word) (q : RegIdx) : (s.unknownOpcode op).reg q = s.reg q := rfl

/-! ### fetchFault -/

@[simp] theorem State.fetchFault_mem (a : Word) : (s.fetchFault a).mem = s.mem := rfl
@[simp] theorem State.fetchFault_v (a : Word) : (s.fetchFault a).v = s.v := rfl
@[simp] theorem State.fetchFault_i (a : Word) : (s.fetchFault a).i = s.i := rfl
@[simp] theorem State.fetchFault_pc (a : Word) : (s.fetchFault a).pc = s.pc := rfl
@[simp] theorem State.fetchFault_stack (a : Word) : (s.fetchFault a).stack = s.stack := rfl
@[simp] theorem State.fetchFault_sp (a : Word) : (s.fetchFault a).sp = s.sp := rfl
@[simp] theorem State.fetchFault_dt (a : Word) : (s.fetchFault a).dt = s.dt := rfl
@[simp] theorem State.fetchFault_st (a : Word) : (s.fetchFault a).st = s.st := rfl
@[simp] theorem State.fetchFault_fb (a : Word) : (s.fetchFault a).fb = s.fb := rfl
@[simp] theorem State.fetchFault_key (a : Word) : (s.fetchFault a).key = s.key := rfl
@[simp] theorem State.fetchFault_redraw (a : Word) : (s.fetchFault a).redraw = s.redraw := rfl
@[simp] theorem State.fetchFault_run (a : Word) : (s.fetchFault a).run = .faulted := rfl
@[simp] theorem State.fetchFault_fault (a : Word) : (s.fetchFault a).fault = ⟨.memOutOfRange, s.pc, 0, a⟩ := rfl
@[simp] theorem State.fetchFault_out (a : Word) : (s.fetchFault a).out = ⟨false, none, some ⟨.memOutOfRange, s.pc, 0, a⟩⟩ := rfl
@[simp] theorem State.fetchFault_illegalSeen (a : Word) : (s.fetchFault a).illegalSeen = s.illegalSeen := rfl
@[simp] theorem State.fetchFault_draws (a : Word) : (s.fetchFault a).draws = s.draws := rfl
@[simp] theorem State.fetchFault_reg (a : Word) (q : RegIdx) : (s.fetchFault a).reg q = s.reg q := rfl

/-! ### idleCycle -/

@[simp] theorem State.idleCycle_mem : (s.idleCycle).mem = s.mem := rfl
@[simp] theorem State.idleCycle_v : (s.idleCycle).v = s.v := rfl
@[simp] theorem State.idleCycle_i : (s.idleCycle).i = s.i := rfl
@[simp] theorem State.idleCycle_pc : (s.idleCycle).pc = s.pc := rfl
@[simp] theorem State.idleCycle_stack : (s.idleCycle).stack = s.stack := rfl
@[simp] theorem State.idleCycle_sp : (s.idleCycle).sp = s.sp := rfl
@[simp] theorem State.idleCycle_dt : (s.idleCycle).dt = s.dt := rfl
@[simp] theorem State.idleCycle_st : (s.idleCycle).st = s.st := rfl
@[simp] theorem State.idleCycle_fb : (s.idleCycle).fb = s.fb := rfl
@[simp] theorem State.idleCycle_key : (s.idleCycle).key = s.key := rfl
@[simp] theorem State.idleCycle_redraw : (s.idleCycle).redraw = s.redraw := rfl
@[simp] theorem State.idleCycle_run : (s.idleCycle).run = s.run := rfl
@[simp] theorem State.idleCycle_fault : (s.idleCycle).fault = s.fault := rfl
@[simp] theorem State.idleCycle_out : (s.idleCycle).out = Outputs.quiet := rfl
@[simp] theorem State.idleCycle_illegalSeen : (s.idleCycle).illegalSeen = s.illegalSeen := rfl
@[simp] theorem State.idleCycle_draws : (s.idleCycle).draws = s.draws := rfl
@[simp] theorem State.idleCycle_reg (q : RegIdx) : (s.idleCycle).reg q = s.reg q := rfl

/-! ### setKeyInput -/

@[simp] theorem State.setKeyInput_mem (k : Option Nibble) : (s.setKeyInput k).mem = s.mem := rfl
@[simp] theorem State.setKeyInput_v (k : Option Nibble) : (s.setKeyInput k).v = s.v := rfl
@[simp] theorem State.setKeyInput_i (k : Option Nibble) : (s.setKeyInput k).i = s.i := rfl
@[simp] theorem State.setKeyInput_pc (k : Option Nibble) : (s.setKeyInput k).pc = s.pc := rfl
@[simp] theorem State.setKeyInput_stack (k : Option Nibble) : (s.setKeyInput k).stack = s.stack := rfl
@[simp] theorem State.setKeyInput_sp (k : Option Nibble) : (s.setKeyInput k).sp = s.sp := rfl
@[simp] theorem State.setKeyInput_dt (k : Option Nibble) : (s.setKeyInput k).dt = s.dt := rfl
@[simp] theorem State.setKeyInput_st (k : Option Nibble) : (s.setKeyInput k).st = s.st := rfl
@[simp] theorem State.setKeyInput_fb (k : Option Nibble) : (s.setKeyInput k).fb = s.fb := rfl
@[simp] theorem State.setKeyInput_key (k : Option Nibble) : (s.setKeyInput k).key = k := rfl
@[simp] theorem State.setKeyInput_redraw (k : Option Nibble) : (s.setKeyInput k).redraw = s.redraw := rfl
@[simp] theorem State.setKeyInput_run (k : Option Nibble) : (s.setKeyInput k).run = s.run := rfl
@[simp] theorem State.setKeyInput_fault (k : Option Nibble) : (s.setKeyInput k).fault = s.fault := rfl
@[simp] theorem State.setKeyInput_out (k : Option Nibble) : (s.setKeyInput k).out = s.out := rfl
@[simp] theorem State.setKeyInput_illegalSeen (k : Option Nibble) : (s.setKeyInput k).illegalSeen = s.illegalSeen := rfl
@[simp] theorem State.setKeyInput_draws (k : Option Nibble) : (s.setKeyInput k).draws = s.draws := rfl
@[simp] theorem State.setKeyInput_reg (k : Option Nibble) (q : RegIdx) : (s.setKeyInput k).reg q = s.reg q := rfl

/-! ### ackRedraw -/

@[simp] theorem State.ackRedraw_mem : (s.ackRedraw).mem = s.mem := rfl
@[simp] theorem State.ackRedraw_v : (s.ackRedraw).v = s.v := rfl
@[simp] theorem State.ackRedraw_i : (s.ackRedraw).i = s.i := rfl
@[simp] theorem State.ackRedraw_pc : (s.ackRedraw).pc = s.pc := rfl
@[simp] theorem State.ackRedraw_stack : (s.ackRedraw).stack = s.stack := rfl
@[simp] theorem State.ackRedraw_sp : (s.ackRedraw).sp = s.sp := rfl
@[simp] theorem State.ackRedraw_dt : (s.ackRedraw).dt = s.dt := rfl
@[simp] theorem State.ackRedraw_st : (s.ackRedraw).st = s.st := rfl
@[simp] theorem State.ackRedraw_fb : (s.ackRedraw).fb = s.fb := rfl
@[simp] theorem State.ackRedraw_key : (s.ackRedraw).key = s.key := rfl
@[simp] theorem State.ackRedraw_redraw : (s.ackRedraw).redraw = false := rfl
@[simp] theorem State.ackRedraw_run : (s.ackRedraw).run = s.run := rfl
@[simp] theorem State.ackRedraw_fault : (s.ackRedraw).fault = s.fault := rfl
@[simp] theorem State.ackRedraw_out : (s.ackRedraw).out = s.out := rfl
@[simp] theorem State.ackRedraw_illegalSeen : (s.ackRedraw).illegalSeen = s.illegalSeen := rfl
@[simp] theorem State.ackRedraw_draws : (s.ackRedraw).draws = s.draws := rfl
@[simp] theorem State.ackRedraw_reg (q : RegIdx) : (s.ackRedraw).reg q = s.reg q := rfl

/-! ### reset -/

@[simp] theorem State.resetOp_mem : s.resetOp.mem = [] := rfl
@[simp] theorem State.resetOp_v : s.resetOp.v = Vector.replicate 16 0 := rfl
@[simp] theorem State.resetOp_i : s.resetOp.i = 0 := rfl
@[simp] theorem State.resetOp_pc : s.resetOp.pc = 0x200 := rfl
@[simp] theorem State.resetOp_stack : s.resetOp.stack = Vector.replicate 16 0 := rfl
@[simp] theorem State.resetOp_sp : s.resetOp.sp = 0 := rfl
@[simp] theorem State.resetOp_dt : s.resetOp.dt = 0 := rfl
@[simp] theorem State.resetOp_st : s.resetOp.st = 0 := rfl
@[simp] theorem State.resetOp_fb : s.resetOp.fb = blankFb := rfl
@[simp] theorem State.resetOp_key : s.resetOp.key = none := rfl
@[simp] theorem State.resetOp_redraw : s.resetOp.redraw = false := rfl
@[simp] theorem State.resetOp_run : s.resetOp.run = .ready := rfl
@[simp] theorem State.resetOp_fault : s.resetOp.fault = FaultRecord.zero := rfl
@[simp] theorem State.resetOp_out : s.resetOp.out = Outputs.quiet := rfl
@[simp] theorem State.resetOp_illegalSeen : s.resetOp.illegalSeen = s.illegalSeen := rfl
@[simp] theorem State.resetOp_draws : s.resetOp.draws = s.draws := rfl

/-! ### Registers -/

/-- Read after write. -/
@[simp] theorem State.reg_setReg (r q : RegIdx) (b : Byte) :
    (s.setReg r b).reg q = if q = r then b else s.reg q := by
  simp only [State.reg, State.setReg]
  by_cases h : q = r
  · subst h; simp
  · have h' : r.val ≠ q.val := fun e => h (Fin.ext e.symm)
    simp [h, h']

/-- The flag is written last, so it is what VF holds (R122(e)). -/
@[simp] theorem State.reg_setResultFlag (x q : RegIdx) (b : Byte) (f : Bool) :
    (s.setResultFlag x b f).reg q
      = if q = vF then flagByte f else if q = x then b else s.reg q := by
  simp [State.setResultFlag]

@[simp] theorem State.reg_drawInto (x q : RegIdx) (nn b : Byte) :
    (s.drawInto x nn b).reg q = if q = x then b &&& nn else s.reg q := by
  simp only [State.drawInto, State.advance_reg, State.reg_setReg]
  rfl

/-- Two register files are equal when every register reads the same. -/
theorem regs_ext {s t : State} (h : ∀ r, s.reg r = t.reg r) : s.v = t.v := by
  apply Vector.ext
  intro k hk
  exact h ⟨k, hk⟩

end Sys2Proof.Machine
end

