-- ==== Sys2Proof/Laws/Ops.lean ====
section
/-! SUPPORT. One spec lemma per shared operation: everything it can do. -/

namespace Sys2Proof.Machine

variable {s t : State}

/-! ### The call stack (R25, R26) -/

/-- A push succeeds exactly when the stack is not full. -/
theorem State.push_eq_none {w : Word} : s.push w = none ↔ s.sp.val = 16 := by
  have := s.sp.isLt
  simp only [State.push]
  split <;> simp <;> omega

/-- What a push does: the entry at the old `sp`, one more entry in use, nothing else. -/
theorem State.push_eq_some {w : Word} (h : s.push w = some t) :
    s.sp.val < 16 ∧ t.sp.val = s.sp.val + 1 ∧
      (∀ k, (hk : k < 16) → t.stack[k] = if k = s.sp.val then w else s.stack[k]) ∧
      t = { s with stack := t.stack, sp := t.sp } := by
  simp only [State.push] at h
  split at h
  · next hlt =>
    injection h with h
    subst h
    refine ⟨hlt, rfl, fun k hk => ?_, rfl⟩
    simp only [Vector.getElem_set]
    by_cases e : s.sp.val = k
    · simp [e]
    · simp [e, Ne.symm e]
  · cases h

/-- A pop succeeds exactly when the stack is not empty. -/
theorem State.pop_eq_none : s.pop = none ↔ s.sp.val = 0 := by
  simp only [State.pop]
  split <;> simp_all

/-- What a pop does: the top entry, one entry fewer in use, nothing else. -/
theorem State.pop_eq_some {w : Word} (h : s.pop = some (w, t)) :
    ∃ h0 : 0 < s.sp.val, w = s.stack[s.sp.val - 1]'(by omega) ∧ t.sp.val = s.sp.val - 1 ∧
      t = { s with sp := t.sp } := by
  simp only [State.pop] at h
  split at h
  · cases h
  · next hne =>
    injection h with h
    injection h with h1 h2
    subst h1; subst h2
    exact ⟨by omega, rfl, rfl, rfl⟩

/-! ### Fetch (R43, R46, R81) -/

/-- When the fetch succeeds, and what it reads. -/
theorem State.fetch_eq_ok {op : Word} : s.fetch = .ok op ↔
    s.pc.toNat ≤ 0xFFE ∧ op = wordOfBytes (s.mem.read s.pc.toNat) (s.mem.read (s.pc.toNat + 1)) := by
  simp only [State.fetch, memRead]
  by_cases h1 : s.pc.toNat < 4096
  · by_cases h2 : s.pc.toNat + 1 < 4096
    · simp only [h1, h2, if_true, Except.ok.injEq]
      constructor
      · rintro rfl; exact ⟨by omega, rfl⟩
      · rintro ⟨-, rfl⟩; rfl
    · simp only [h1, h2, if_true, if_false, reduceCtorEq, false_iff]
      rintro ⟨h, -⟩; omega
  · simp only [h1, if_false, reduceCtorEq, false_iff]
    rintro ⟨h, -⟩; omega

/-- When the fetch fails, and the address it reports. -/
theorem State.fetch_eq_error {a : Word} : s.fetch = .error a ↔
    0xFFE < s.pc.toNat ∧ a = if s.pc.toNat = 0xFFF then 0x1000 else s.pc := by
  simp only [State.fetch, memRead]
  by_cases h1 : s.pc.toNat < 4096
  · by_cases h2 : s.pc.toNat + 1 < 4096
    · simp only [h1, h2, if_true, reduceCtorEq, false_iff]
      rintro ⟨h, -⟩; omega
    · have h3 : s.pc.toNat = 0xFFF := by omega
      simp [h3, eq_comm]
  · have h2 : s.pc.toNat ≠ 0xFFF := by omega
    have h3 : BitVec.ofNat 16 s.pc.toNat = s.pc := by simp
    simp only [h1, if_false, Except.error.injEq, h2, h3]
    constructor
    · rintro rfl; exact ⟨by omega, rfl⟩
    · rintro ⟨-, rfl⟩; rfl

/-- A stored opcode is what the fetch at that address reads (R43, R53). -/
theorem State.fetch_storeWord (op : Word) (h : s.pc.toNat ≤ 0xFFE) :
    (s.storeWord s.pc.toNat op).fetch = .ok op := by
  rw [State.fetch_eq_ok]
  refine ⟨h, ?_⟩
  simp only [State.storeWord, State.storeBytes_pc, State.storeBytes_mem]
  rw [Memory.read_writeBytes _ _ _ _ (by simp; omega), Memory.read_writeBytes _ _ _ _ (by simp; omega)]
  simp

/-! ### The timer phase (R84) -/

/-- A tick subtracts 1 and stops at 0. -/
theorem toNat_tick (b : Byte) : (tick b).toNat = b.toNat - 1 := by
  revert b; decide

/-- The end of a cycle answers a next state only from one: the timer phase after it, or the raised
state itself. -/
theorem finishCycle_eq_next {r : Result} : finishCycle r = .next t ↔
    ∃ u, r = .next u ∧ ((u.run = .ready ∧ t = u.timers none) ∨ (u.run = .faulted ∧ t = u)) := by
  cases r with
  | next u =>
    cases h : u.run <;> simp [finishCycle, h, eq_comm]
  | fault r => simp [finishCycle]
  | refused r => simp [finishCycle]

/-! ### Operands and flags -/

/-- The flag byte is 0x00 or 0x01 (R122(f)). -/
theorem toNat_flagByte (f : Bool) : (flagByte f).toNat = if f then 1 else 0 := by
  cases f <;> rfl

theorem toNat_addrWord (nnn : Addr) : (addrWord nnn).toNat = nnn.toNat := by
  simp [addrWord]; omega

theorem toNat_indexPlus (b : Byte) : (s.indexPlus b).toNat = (s.i.toNat + b.toNat) % 4096 := by
  simp [State.indexPlus]; omega

theorem toNat_glyphAddr (b : Byte) : (glyphAddr b).toNat = 5 * (b.toNat % 16) := by
  simp [glyphAddr]; omega

@[simp] theorem length_bcdDigits (b : Byte) : (bcdDigits b).length = 3 := rfl

@[simp] theorem length_regsUpTo (x : RegIdx) : (s.regsUpTo x).length = x.val + 1 := by
  simp [State.regsUpTo]

theorem getElem_regsUpTo (x : RegIdx) (k : Nat) (h : k < (s.regsUpTo x).length) :
    (s.regsUpTo x)[k] = s.reg ⟨k, by simp at h; omega⟩ := by
  simp [State.regsUpTo, State.reg]

@[simp] theorem inRange_eq_true {a n : Nat} :
    Memory.inRange a n = true ↔ n = 0 ∨ a + n ≤ 4096 := by
  simp [Memory.inRange]

end Sys2Proof.Machine
end

