-- ==== Sys2Proof/Laws/PerInstr.lean ====
section
/-! SUPPORT. Statements made once per constructor of `Instr`. -/

/-! ### FixedBits: an instruction's opcode has the fixed bits of its row (R64) -/

namespace Sys2Proof.Laws.FixedBits

/-- The opcode an instruction encodes to selects the instruction's row of the opcode map. -/
def Statement (i : Instr) : Prop := i.row.selects (encode i) = true

theorem of_F000 {g : Nibble} {op value : Word} (hg : fieldGroup op = g)
    (h : (ofNibbles g 0 0 0 == value) = true) : (⟨0xF000, value⟩ : OpcodeRow).selects op = true := by
  simpa only [OpcodeRow.selects, and_F000, hg] using h

theorem of_F00F {g n : Nibble} {op value : Word} (hg : fieldGroup op = g) (hn : fieldN op = n)
    (h : (ofNibbles g 0 0 n == value) = true) : (⟨0xF00F, value⟩ : OpcodeRow).selects op = true := by
  simpa only [OpcodeRow.selects, and_F00F, hg, hn] using h

theorem of_F0FF {g y n : Nibble} {op value : Word} (hg : fieldGroup op = g) (hy : fieldY op = y)
    (hn : fieldN op = n) (h : (ofNibbles g 0 y n == value) = true) :
    (⟨0xF0FF, value⟩ : OpcodeRow).selects op = true := by
  simpa only [OpcodeRow.selects, and_F0FF, hg, hy, hn] using h

theorem cls (ign : Nibble) : Statement (.cls ign) :=
  of_F0FF (fieldGroup_ofXnn ..) (fieldY_ofXnn ..) (fieldN_ofXnn ..) (by decide)

theorem ret (ign : Nibble) : Statement (.ret ign) :=
  of_F0FF (fieldGroup_ofXnn ..) (fieldY_ofXnn ..) (fieldN_ofXnn ..) (by decide)

theorem jp (nnn : Addr) : Statement (.jp nnn) :=
  of_F000 (fieldGroup_ofNnn ..) (by decide)

theorem call (nnn : Addr) : Statement (.call nnn) :=
  of_F000 (fieldGroup_ofNnn ..) (by decide)

theorem seImm (x : RegIdx) (nn : Byte) : Statement (.seImm x nn) :=
  of_F000 (fieldGroup_ofXnn ..) (by decide)

theorem sneImm (x : RegIdx) (nn : Byte) : Statement (.sneImm x nn) :=
  of_F000 (fieldGroup_ofXnn ..) (by decide)

theorem seReg (x y : RegIdx) (ign : Nibble) : Statement (.seReg x y ign) :=
  of_F000 (fieldGroup_ofNibbles ..) (by decide)

theorem ldImm (x : RegIdx) (nn : Byte) : Statement (.ldImm x nn) :=
  of_F000 (fieldGroup_ofXnn ..) (by decide)

theorem addImm (x : RegIdx) (nn : Byte) : Statement (.addImm x nn) :=
  of_F000 (fieldGroup_ofXnn ..) (by decide)

theorem ldReg (x y : RegIdx) : Statement (.ldReg x y) :=
  of_F00F (fieldGroup_ofNibbles ..) (fieldN_ofNibbles ..) (by decide)

theorem orReg (x y : RegIdx) : Statement (.orReg x y) :=
  of_F00F (fieldGroup_ofNibbles ..) (fieldN_ofNibbles ..) (by decide)

theorem andReg (x y : RegIdx) : Statement (.andReg x y) :=
  of_F00F (fieldGroup_ofNibbles ..) (fieldN_ofNibbles ..) (by decide)

theorem xorReg (x y : RegIdx) : Statement (.xorReg x y) :=
  of_F00F (fieldGroup_ofNibbles ..) (fieldN_ofNibbles ..) (by decide)

theorem addReg (x y : RegIdx) : Statement (.addReg x y) :=
  of_F00F (fieldGroup_ofNibbles ..) (fieldN_ofNibbles ..) (by decide)

theorem subReg (x y : RegIdx) : Statement (.subReg x y) :=
  of_F00F (fieldGroup_ofNibbles ..) (fieldN_ofNibbles ..) (by decide)

theorem shr (x y : RegIdx) : Statement (.shr x y) :=
  of_F00F (fieldGroup_ofNibbles ..) (fieldN_ofNibbles ..) (by decide)

theorem subnReg (x y : RegIdx) : Statement (.subnReg x y) :=
  of_F00F (fieldGroup_ofNibbles ..) (fieldN_ofNibbles ..) (by decide)

theorem shl (x y : RegIdx) : Statement (.shl x y) :=
  of_F00F (fieldGroup_ofNibbles ..) (fieldN_ofNibbles ..) (by decide)

theorem sneReg (x y : RegIdx) (ign : Nibble) : Statement (.sneReg x y ign) :=
  of_F000 (fieldGroup_ofNibbles ..) (by decide)

theorem ldI (nnn : Addr) : Statement (.ldI nnn) :=
  of_F000 (fieldGroup_ofNnn ..) (by decide)

theorem jpV0 (nnn : Addr) : Statement (.jpV0 nnn) :=
  of_F000 (fieldGroup_ofNnn ..) (by decide)

theorem rnd (x : RegIdx) (nn : Byte) : Statement (.rnd x nn) :=
  of_F000 (fieldGroup_ofXnn ..) (by decide)

theorem drw (x y : RegIdx) (n : RowCount) : Statement (.drw x y n) :=
  of_F000 (fieldGroup_ofNibbles ..) (by decide)

theorem skp (x : RegIdx) : Statement (.skp x) :=
  of_F0FF (fieldGroup_ofXnn ..) (fieldY_ofXnn ..) (fieldN_ofXnn ..) (by decide)

theorem sknp (x : RegIdx) : Statement (.sknp x) :=
  of_F0FF (fieldGroup_ofXnn ..) (fieldY_ofXnn ..) (fieldN_ofXnn ..) (by decide)

theorem ldFromDt (x : RegIdx) : Statement (.ldFromDt x) :=
  of_F0FF (fieldGroup_ofXnn ..) (fieldY_ofXnn ..) (fieldN_ofXnn ..) (by decide)

theorem ldKey (x : RegIdx) : Statement (.ldKey x) :=
  of_F0FF (fieldGroup_ofXnn ..) (fieldY_ofXnn ..) (fieldN_ofXnn ..) (by decide)

theorem ldDt (x : RegIdx) : Statement (.ldDt x) :=
  of_F0FF (fieldGroup_ofXnn ..) (fieldY_ofXnn ..) (fieldN_ofXnn ..) (by decide)

theorem ldSt (x : RegIdx) : Statement (.ldSt x) :=
  of_F0FF (fieldGroup_ofXnn ..) (fieldY_ofXnn ..) (fieldN_ofXnn ..) (by decide)

theorem addI (x : RegIdx) : Statement (.addI x) :=
  of_F0FF (fieldGroup_ofXnn ..) (fieldY_ofXnn ..) (fieldN_ofXnn ..) (by decide)

theorem ldFont (x : RegIdx) : Statement (.ldFont x) :=
  of_F0FF (fieldGroup_ofXnn ..) (fieldY_ofXnn ..) (fieldN_ofXnn ..) (by decide)

theorem ldBcd (x : RegIdx) : Statement (.ldBcd x) :=
  of_F0FF (fieldGroup_ofXnn ..) (fieldY_ofXnn ..) (fieldN_ofXnn ..) (by decide)

theorem dumpRegs (x : RegIdx) : Statement (.dumpRegs x) :=
  of_F0FF (fieldGroup_ofXnn ..) (fieldY_ofXnn ..) (fieldN_ofXnn ..) (by decide)

theorem loadRegs (x : RegIdx) : Statement (.loadRegs x) :=
  of_F0FF (fieldGroup_ofXnn ..) (fieldY_ofXnn ..) (fieldN_ofXnn ..) (by decide)

end Sys2Proof.Laws.FixedBits
end

