-- ==== Sys2Proof/Laws/Step.lean ====
section
/-! SUPPORT. Everything a step can do (R80): the inversion lemma later proofs cite instead of
unfolding `step`. -/

namespace Sys2Proof.Machine

variable {s t : State}

/-- The four ways of a step that answers a next state. -/
theorem step_cases (h : step s = .next t) :
    (s.run = .faulted ∧ t = s.idleCycle) ∨
    (∃ a, s.run = .ready ∧ s.fetch = .error a ∧ t = s.fetchFault a) ∨
    (∃ op r, s.run = .ready ∧ s.fetch = .ok op ∧ decodeWord op = .error r ∧
      t = s.unknownOpcode op) ∨
    (∃ op i u, s.run = .ready ∧ s.fetch = .ok op ∧ decodeWord op = .ok i ∧ exec i s = .next u ∧
      ((u.run = .ready ∧ t = u.timers none) ∨ (u.run = .faulted ∧ t = u))) := by
  unfold step at h
  cases hr : s.run with
  | faulted => rw [hr] at h; simp only [Host.Outcome.next.injEq] at h; exact .inl ⟨rfl, h.symm⟩
  | ready =>
    rw [hr] at h
    cases hf : s.fetch with
    | error a =>
      simp only [hf, Host.Outcome.next.injEq] at h
      exact .inr (.inl ⟨a, rfl, rfl, h.symm⟩)
    | ok op =>
      cases hd : decodeWord op with
      | error r =>
        simp only [hf, hd, Host.Outcome.next.injEq] at h
        exact .inr (.inr (.inl ⟨op, r, rfl, rfl, hd, h.symm⟩))
      | ok i =>
        simp only [hf, hd] at h
        obtain ⟨u, hu, hc⟩ := finishCycle_eq_next.mp h
        exact .inr (.inr (.inr ⟨op, i, u, rfl, rfl, hd, hu, hc⟩))

/-- The step of a READY core whose fetched word is known. -/
theorem step_of_decode {op : Word} {i : Instr} (hr : s.run = .ready) (hf : s.fetch = .ok op)
    (hd : decodeWord op = .ok i) : step s = finishCycle (exec i s) := by
  unfold step; simp only [hr, hf, hd]

/-- The step of a READY core whose fetched word is unknown. -/
theorem step_of_unknown {op : Word} {r : Reject} (hr : s.run = .ready) (hf : s.fetch = .ok op)
    (hd : decodeWord op = .error r) : step s = .next (s.unknownOpcode op) := by
  unfold step; simp only [hr, hf, hd]

/-- The step of a READY core whose pc leaves the memory. -/
theorem step_of_fetch_error {a : Word} (hr : s.run = .ready) (hf : s.fetch = .error a) :
    step s = .next (s.fetchFault a) := by
  unfold step; simp only [hr, hf]

/-- The step of a FAULTED core. -/
theorem step_of_faulted (hr : s.run = .faulted) : step s = .next s.idleCycle := by
  unfold step; simp only [hr]

/-- When the next cycle executes a `Cxnn`. -/
theorem State.pendingRnd_eq_some {x : RegIdx} {nn : Byte} : s.pendingRnd = some (x, nn) ↔
    s.run = .ready ∧ ∃ op, s.fetch = .ok op ∧ decodeWord op = .ok (.rnd x nn) := by
  unfold State.pendingRnd
  split
  · next op hr hf =>
    simp only [hr, hf, true_and, Except.ok.injEq, exists_eq_left']
    split
    · next y n hd => simp [hd]
    · next hn =>
      simp only [reduceCtorEq, false_iff]
      exact fun hd => hn x nn hd
  · next hn =>
    simp only [reduceCtorEq, false_iff]
    rintro ⟨hr, op, hf, -⟩
    exact hn op hr hf

/-- `step` is the cycle whose entropy byte is the free draw (R80, R121). -/
theorem step_eq_cycleWith : step s = s.cycleWith (Config.freeDraw s.draws) := by
  unfold State.cycleWith
  cases h : s.pendingRnd with
  | none => rfl
  | some p =>
    obtain ⟨x, nn⟩ := p
    obtain ⟨hr, op, hf, hd⟩ := State.pendingRnd_eq_some.mp h
    exact step_of_decode hr hf hd

/-- The entropy byte of a cycle that executes no `Cxnn` changes nothing (R80). -/
theorem cycleWith_eq_step (rnd : Byte) (h : s.pendingRnd = none) : s.cycleWith rnd = step s := by
  simp only [State.cycleWith, h]

/-- A run of `n + 1` cycles is one step and then a run of `n`. -/
theorem run_succ (n : Nat) (h : step s = .next t) :
    Host.Core.run Sys2Proof.core (n + 1) s = Host.Core.run Sys2Proof.core n t := by
  have h' : Sys2Proof.core.step s = .next t := h
  simp only [Host.Core.run, h']

end Sys2Proof.Machine
end

