-- ==== Sys2Proof/Machine/Asm.lean ====
section
/-! DEFINITION. The assembler spelling of an instruction (spec/30_encoding.md R68). The hardware knows
nothing of it; no other definition uses it. The names are PRESUMED (G3, D23; log 4). -/

namespace Sys2Proof.Machine

/-- One hexadecimal digit. -/
def hexDigit (d : Fin 16) : String :=
  match d.val with
  | 0 => "0" | 1 => "1" | 2 => "2" | 3 => "3" | 4 => "4" | 5 => "5" | 6 => "6" | 7 => "7"
  | 8 => "8" | 9 => "9" | 10 => "A" | 11 => "B" | 12 => "C" | 13 => "D" | 14 => "E" | _ => "F"

/-- `V0` to `VF`. -/
def regName (r : RegIdx) : String := "V" ++ hexDigit r

/-- The hexadecimal digit of bits 4k+3 to 4k of a number. -/
def hexDigitAt (n k : Nat) : String := hexDigit ⟨n / 16 ^ k % 16, Nat.mod_lt _ (by decide)⟩

/-- A byte immediate. -/
def byteText (b : Byte) : String := "0x" ++ hexDigitAt b.toNat 1 ++ hexDigitAt b.toNat 0

/-- An address immediate. -/
def addrText (a : Addr) : String :=
  "0x" ++ hexDigitAt a.toNat 2 ++ hexDigitAt a.toNat 1 ++ hexDigitAt a.toNat 0

/-- `MNEMONIC Vx, Vy`. -/
def twoRegs (name : String) (x y : RegIdx) : String :=
  name ++ " " ++ regName x ++ ", " ++ regName y

/-- `MNEMONIC Vx, nn`. -/
def regImm (name : String) (x : RegIdx) (nn : Byte) : String :=
  name ++ " " ++ regName x ++ ", " ++ byteText nn

/-- A shift, with its second register only where the `y` field is not 0 (R68). -/
def shiftText (name : String) (x y : RegIdx) : String :=
  if y = 0 then name ++ " " ++ regName x else twoRegs name x y

/-- The instruction as an assembler writes it (R68). -/
def asmText : Instr → String
  | .cls _ => "CLS"
  | .ret _ => "RET"
  | .jp nnn => "JP " ++ addrText nnn
  | .call nnn => "CALL " ++ addrText nnn
  | .seImm x nn => regImm "SE" x nn
  | .sneImm x nn => regImm "SNE" x nn
  | .seReg x y _ => twoRegs "SE" x y
  | .ldImm x nn => regImm "LD" x nn
  | .addImm x nn => regImm "ADD" x nn
  | .ldReg x y => twoRegs "LD" x y
  | .orReg x y => twoRegs "OR" x y
  | .andReg x y => twoRegs "AND" x y
  | .xorReg x y => twoRegs "XOR" x y
  | .addReg x y => twoRegs "ADD" x y
  | .subReg x y => twoRegs "SUB" x y
  | .shr x y => shiftText "SHR" x y
  | .subnReg x y => twoRegs "SUBN" x y
  | .shl x y => shiftText "SHL" x y
  | .sneReg x y _ => twoRegs "SNE" x y
  | .ldI nnn => "LD I, " ++ addrText nnn
  | .jpV0 nnn => "JP V0, " ++ addrText nnn
  | .rnd x nn => regImm "RND" x nn
  | .drw x y n => twoRegs "DRW" x y ++ ", 0x" ++ hexDigit n
  | .skp x => "SKP " ++ regName x
  | .sknp x => "SKNP " ++ regName x
  | .ldFromDt x => "LD " ++ regName x ++ ", DT"
  | .ldKey x => "LD " ++ regName x ++ ", K"
  | .ldDt x => "LD DT, " ++ regName x
  | .ldSt x => "LD ST, " ++ regName x
  | .addI x => "ADD I, " ++ regName x
  | .ldFont x => "LD F, " ++ regName x
  | .ldBcd x => "LD B, " ++ regName x
  | .dumpRegs x => "LD [I], " ++ regName x
  | .loadRegs x => "LD " ++ regName x ++ ", [I]"

end Sys2Proof.Machine
end

