-- ==== Sys2Proof/Machine/Ports.lean ====
section
/-! DEFINITION. The spec's signal-level binding (spec/50_host_interface.md R169, R170): its output ports
as views of the state, its input ports as requests that the host operations serve. The binding is
non-normative (D1; log 19). A clock of this file is one with `busy = 0`, in which all that is requested
completes; `clk`, `busy` and `done` carry timing alone, which no rule specifies (R171; log 18). -/

namespace Sys2Proof.Machine

/-- The numbers of R181. -/
def ErrorCode.number : ErrorCode → Nat
  | .none => 0
  | .stackUnderflow => 1
  | .stackOverflow => 2
  | .memOutOfRange => 3
  | .illegalOpcode => 4
  | .loadTooLarge => 5

/-- Output ports valid when `busy = 0` (R169). -/
structure OutPorts where
  redraw : Bool
  soundOn : Bool
  /-- `diag_illegal` with `diag_pc` and `diag_op` -/
  diag : Option IllegalOpcode
  fault : Bool
  faultCode : BitVec 3
  faultPc : Word
  faultOp : Word
  faultAddr : Word
  deriving DecidableEq, Repr

/-- The output ports of a state (R169). -/
def State.outPorts (s : State) : OutPorts where
  redraw := s.redraw
  soundOn := s.out.soundOn
  diag := s.out.diag
  fault := s.run == .faulted
  faultCode := BitVec.ofNat 3 s.fault.code.number
  faultPc := s.fault.fpc
  faultOp := s.fault.fop
  faultAddr := s.fault.faddr

/-- `fb_data = fb[fb_addr]` (R169). -/
def State.fbData (s : State) (fbAddr : BitVec 11) : Bool := cell s.fb fbAddr.toNat

/-- `key_valid` and `key_code` (R169). -/
def State.keyPort (s : State) (keyValid : Bool) (keyCode : Nibble) : State :=
  s.setKeyInput (if keyValid then some keyCode else none)

/-- One byte of the load stream: the state with the byte stored, or `ld_err` for an offset above 3583,
which is refused before it is written (R169, R170). -/
def State.loadPort (s : State) (ldAddr : BitVec 12) (ldData : Byte) : Option State :=
  if ldAddr.toNat < Config.progMax then
    some (s.storeBytes (Config.progBase + ldAddr.toNat) [ldData])
  else none

/-- The input ports (R169), but for `clk` and for `fb_addr`, which `State.fbData` takes. -/
structure InPorts where
  rst : Bool
  step : Bool
  rnd : Byte
  keyValid : Bool
  keyCode : Nibble
  ldEn : Bool
  ldAddr : BitVec 12
  ldData : Byte
  ldLast : Bool
  redrawAck : Bool
  deriving DecidableEq, Repr

/-- The core behind its ports: the machine's state, and what the load stream has come to. -/
structure PortState where
  core : State
  /-- a byte was offered, and no `ld_last` since -/
  ldOpen : Bool
  /-- the port `ld_err` -/
  ldErr : Bool
  deriving DecidableEq, Repr

/-- What a clock at the ports answers. -/
abbrev PortResult := Host.Outcome PortState Fault Refusal

/-- `rst`: `reset()`, and no load stream (R169, R170). -/
def PortState.resetIn (p : PortState) : PortState :=
  { core := p.core.resetOp, ldOpen := false, ldErr := false }

/-- `key_valid` and `key_code`, which set the latch in every clock (R169). -/
def PortState.keyIn (p : PortState) (i : InPorts) : PortState :=
  { p with core := p.core.keyPort i.keyValid i.keyCode }

/-- `redraw_ack` (R169). -/
def PortState.ackIn (p : PortState) (i : InPorts) : PortState :=
  if i.redrawAck then { p with core := p.core.ackRedraw } else p

/-- `ld_en`: one byte of the load stream, which `ld_last` ends. An offset above 3583 stores nothing and
raises `ld_err`, which stays until `rst`, as R170 requires a reset before the core runs. A byte offered
while `ld_err` stands is served like any other: DESIGN CHOICE, R170 gives no effect there (log 19). -/
def PortState.loadIn (p : PortState) (i : InPorts) : PortState :=
  if i.ldEn then
    match p.core.loadPort i.ldAddr i.ldData with
    | some s => { p with core := s, ldOpen := !i.ldLast }
    | none => { p with ldOpen := !i.ldLast, ldErr := true }
  else p

/-- `step`, with `rnd` sampled beside it (R169). A step while `ld_err` stands, or while the load stream is
open, runs the cycle all the same: DESIGN CHOICE, since R170 only obliges the host to reset first and
gives no effect otherwise (log 19). -/
def PortState.stepIn (p : PortState) (i : InPorts) : PortResult :=
  if i.step then
    match p.core.cycleWith i.rnd with
    | .next s => .next { p with core := s }
    | .fault r => .fault r
    | .refused r => .refused r
  else .next p

/-- One clock with `busy = 0` (R169). `rst` is served alone; else the latch, the acknowledgement, the
load stream and the cycle are served in this order. That order is the model's own: the spec lets the
host issue one operation at a time (R168; log 19). -/
def PortState.clock (p : PortState) (i : InPorts) : PortResult :=
  if i.rst then .next p.resetIn else (((p.keyIn i).ackIn i).loadIn i).stepIn i

end Sys2Proof.Machine
end

