-- ==== Sys2Proof/Tests/Slice0.lean ====
section
/-! SUPPORT. The model's own tests. Expected results come from spec/95_test_vectors.md (T, H, S name its
rows) and spec/30_encoding.md R64, R68, R70, never from the model. The witness theorems at the end show
states and operands that meet the hypotheses of the statements. -/

namespace Sys2Proof.Tests

open Sys2Proof.Machine

/-! ### Well-formedness: each check refuses an ill-formed term -/

theorem test_wf_refuses_cls : (Instr.cls 0x5).wellFormed = false := by decide
theorem test_wf_refuses_ret : (Instr.ret 0xF).wellFormed = false := by decide
theorem test_wf_refuses_seReg : (Instr.seReg 0xA 0xB 0x7).wellFormed = false := by decide
theorem test_wf_refuses_sneReg : (Instr.sneReg 0xA 0xB 0x3).wellFormed = false := by decide
theorem test_wf_accepts_canonical :
    (Instr.cls 0).wellFormed && (Instr.ret 0).wellFormed && (Instr.seReg 0xA 0xB 0).wellFormed &&
      (Instr.sneReg 0xA 0xB 0).wellFormed && (Instr.drw 0xF 0xF 0xF).wellFormed = true := by decide

/-! ### Decoding: every constructor, from a word written out from R64 -/

theorem test_decode_control :
    decodeWord 0x00E0 = .ok (.cls 0) ∧ decodeWord 0x0FEE = .ok (.ret 0xF) ∧
    decodeWord 0x1234 = .ok (.jp 0x234) ∧ decodeWord 0x2ABC = .ok (.call 0xABC) ∧
    decodeWord 0x3A05 = .ok (.seImm 0xA 0x05) ∧ decodeWord 0x4A05 = .ok (.sneImm 0xA 0x05) ∧
    decodeWord 0x5AB7 = .ok (.seReg 0xA 0xB 0x7) ∧ decodeWord 0x9AB0 = .ok (.sneReg 0xA 0xB 0) ∧
    decodeWord 0xBFFF = .ok (.jpV0 0xFFF) := by decide

theorem test_decode_arithmetic :
    decodeWord 0x6ABC = .ok (.ldImm 0xA 0xBC) ∧ decodeWord 0x7A01 = .ok (.addImm 0xA 0x01) ∧
    decodeWord 0x8AB0 = .ok (.ldReg 0xA 0xB) ∧ decodeWord 0x8AB1 = .ok (.orReg 0xA 0xB) ∧
    decodeWord 0x8AB2 = .ok (.andReg 0xA 0xB) ∧ decodeWord 0x8AB3 = .ok (.xorReg 0xA 0xB) ∧
    decodeWord 0x8AB4 = .ok (.addReg 0xA 0xB) ∧ decodeWord 0x8AB5 = .ok (.subReg 0xA 0xB) ∧
    decodeWord 0x8AB6 = .ok (.shr 0xA 0xB) ∧ decodeWord 0x8AB7 = .ok (.subnReg 0xA 0xB) ∧
    decodeWord 0x8ABE = .ok (.shl 0xA 0xB) ∧ decodeWord 0xCA0F = .ok (.rnd 0xA 0x0F) := by decide

theorem test_decode_memory_display_keys :
    decodeWord 0xA2F0 = .ok (.ldI 0x2F0) ∧ decodeWord 0xFA1E = .ok (.addI 0xA) ∧
    decodeWord 0xFA29 = .ok (.ldFont 0xA) ∧ decodeWord 0xFA33 = .ok (.ldBcd 0xA) ∧
    decodeWord 0xF255 = .ok (.dumpRegs 0x2) ∧ decodeWord 0xF265 = .ok (.loadRegs 0x2) ∧
    decodeWord 0xD0A1 = .ok (.drw 0x0 0xA 0x1) ∧ decodeWord 0xEA9E = .ok (.skp 0xA) ∧
    decodeWord 0xEAA1 = .ok (.sknp 0xA) ∧ decodeWord 0xFA07 = .ok (.ldFromDt 0xA) ∧
    decodeWord 0xFA0A = .ok (.ldKey 0xA) ∧ decodeWord 0xFA15 = .ok (.ldDt 0xA) ∧
    decodeWord 0xFA18 = .ok (.ldSt 0xA) := by decide

/-- T110 to T117. -/
theorem test_decode_rejects_by_name :
    decodeWord 0x0123 = .error (.unknownGroup0 0x0123) ∧
    decodeWord 0x8ABF = .error (.unknownGroup8 0x8ABF) ∧
    decodeWord 0xEA9F = .error (.unknownGroupE 0xEA9F) ∧
    decodeWord 0xFA75 = .error (.unknownGroupF 0xFA75) ∧
    decodeBytes [0x00] = .error .truncated := by decide

/-- The byte order of R43, the bytes after an instruction, and the host's reading of a table word. -/
theorem test_decode_bytes_and_table_words :
    decodeBytes [0x6A, 0xBC, 0x12] = .ok (.ldImm 0xA 0xBC, [0x12]) ∧
    encodeBytes (.ldImm 0xA 0xBC) = [0x6A, 0xBC] ∧
    decodeTableWord 16 0xD125 = some (.drw 1 2 5) ∧ decodeTableWord 16 0x8AB8 = none := by decide

/-- R68's spellings, with the listing of P3. -/
theorem test_asm :
    asmText (.drw 1 2 5) = "DRW V1, V2, 0x5" ∧ asmText (.ldReg 0xE 0xF) = "LD VE, VF" ∧
    asmText (.shr 0xA 0) = "SHR VA" := by decide

/-! ### One step: a helper that places a word, and a few fields of the result -/

/-- The state that one cycle of the word `op` at `pc` answers, if it answers one. -/
def cycleOf (op : Nat) (s : State) : Option State :=
  match step (s.withFetchWord 16 op) with
  | .next t => some t
  | _ => none

/-- `VA` and `VB`, the rest zero. -/
def withAB (a b : Byte) : State := (State.reset.setReg 0xA a).setReg 0xB b

/-- The lit ones of some cells. -/
def litOf (ks : List Nat) (s : State) : List Nat := ks.filter (cell s.fb)

/-- What the arithmetic tests look at. -/
def abf (s : State) : Byte × Byte × Byte × Word := (s.reg 0xA, s.reg 0xB, s.reg 0xF, s.pc)

/-- T2, T118 and their like: the run state and the fault record. -/
def faultOf (s : State) : RunState × FaultRecord := (s.run, s.fault)

/-! ### Control transfer -/

/-- T3 -/
theorem test_ret_pops_top :
    (cycleOf 0x0FEE { State.reset with sp := 2, stack := State.reset.stack.set 1 0x0456 }).map
      (fun t => (t.pc, t.sp)) = some (0x0456, 1) := by decide
/-- T2 -/
theorem test_ret_empty :
    (cycleOf 0x00EE State.reset).map faultOf
      = some (.faulted, ⟨.stackUnderflow, 0x0200, 0x00EE, 0⟩) := by decide
/-- T6 -/
theorem test_jp : (cycleOf 0x1FFF State.reset).map (·.pc) = some 0x0FFF := by decide
/-- T8 -/
theorem test_call_sixteenth :
    (cycleOf 0x2300 { State.reset with sp := 15 }).map (fun t => (t.pc, t.sp, t.stack[15]))
      = some (0x0300, 16, 0x0202) := by decide
/-- T9 -/
theorem test_call_full :
    (cycleOf 0x2300 { State.reset with sp := 16 }).map faultOf
      = some (.faulted, ⟨.stackOverflow, 0x0200, 0x2300, 0⟩) := by decide
/-- T11 -/
theorem test_se_imm_equal : (cycleOf 0x3A05 (withAB 5 0)).map (·.pc) = some 0x0204 := by decide
/-- T12 -/
theorem test_se_imm_not_equal : (cycleOf 0x3A05 (withAB 6 0)).map (·.pc) = some 0x0202 := by decide
/-- T13 -/
theorem test_sne_imm_equal : (cycleOf 0x4A05 (withAB 5 0)).map (·.pc) = some 0x0202 := by decide
/-- T14 -/
theorem test_sne_imm_not_equal : (cycleOf 0x4A05 (withAB 6 0)).map (·.pc) = some 0x0204 := by decide
/-- T16 -/
theorem test_se_reg_not_equal : (cycleOf 0x5AB0 (withAB 7 8)).map (·.pc) = some 0x0202 := by decide
/-- T17 -/
theorem test_se_reg_ignored_nibble :
    (cycleOf 0x5AB7 (withAB 7 7)).map (·.pc) = some 0x0204 := by decide
/-- T19 -/
theorem test_sne_reg_not_equal : (cycleOf 0x9AB0 (withAB 7 8)).map (·.pc) = some 0x0204 := by decide
/-- T20 -/
theorem test_sne_reg_equal : (cycleOf 0x9AB0 (withAB 7 7)).map (·.pc) = some 0x0202 := by decide
/-- T22, under its premise on the open parameter BNNN_OFFSET. -/
theorem test_jp_v0 (h : Config.ConventionalBnnn) :
    execJpV0 0xFFF (State.reset.setReg 0 0xFF)
      = .next ((State.reset.setReg 0 0xFF).setPc 0x10FE) := by
  rw [execJpV0, State.offsetTarget, h]; rfl

/-! ### Loads and arithmetic -/

/-- T24 -/
theorem test_ld_imm : (cycleOf 0x6ABC State.reset).map abf = some (0xBC, 0, 0, 0x202) := by decide
/-- T25 -/
theorem test_ld_imm_vf : (cycleOf 0x6F07 State.reset).map abf = some (0, 0, 7, 0x202) := by decide
/-- T26 -/
theorem test_add_imm_keeps_vf :
    (cycleOf 0x7A01 ((withAB 0xFF 0).setReg 0xF 1)).map abf = some (0, 0, 1, 0x202) := by decide
/-- T27 -/
theorem test_add_imm_vf :
    (cycleOf 0x7F01 (State.reset.setReg 0xF 0xFF)).map abf = some (0, 0, 0, 0x202) := by decide
/-- T28 -/
theorem test_ld_reg : (cycleOf 0x8AB0 (withAB 0 0x42)).map abf = some (0x42, 0x42, 0, 0x202) := by decide
/-- T29 -/
theorem test_or : (cycleOf 0x8AB1 ((withAB 0xF0 0x0F).setReg 0xF 1)).map abf
    = some (0xFF, 0x0F, 1, 0x202) := by decide
/-- T30 -/
theorem test_and : (cycleOf 0x8AB2 ((withAB 0xF0 0x3C).setReg 0xF 1)).map abf
    = some (0x30, 0x3C, 1, 0x202) := by decide
/-- T31 -/
theorem test_xor : (cycleOf 0x8AB3 ((withAB 0xF0 0x3C).setReg 0xF 1)).map abf
    = some (0xCC, 0x3C, 1, 0x202) := by decide
/-- T33 -/
theorem test_add_carry : (cycleOf 0x8AB4 (withAB 0xFF 2)).map abf = some (1, 2, 1, 0x202) := by decide
/-- T37 -/
theorem test_add_into_vf :
    (cycleOf 0x8FB4 ((withAB 0 0x20).setReg 0xF 0xF0)).map abf = some (0, 0x20, 1, 0x202) := by decide
/-- T42 -/
theorem test_sub_borrow : (cycleOf 0x8AB5 ((withAB 0x10 0x20).setReg 0xF 1)).map abf
    = some (0xF0, 0x20, 0, 0x202) := by decide
/-- T43 -/
theorem test_sub_equal : (cycleOf 0x8AB5 (withAB 0x33 0x33)).map abf = some (0, 0x33, 1, 0x202) := by
  decide
/-- T46 -/
theorem test_shr_ignores_y : (cycleOf 0x8AB6 ((withAB 4 0xFF).setReg 0xF 1)).map abf
    = some (2, 0xFF, 0, 0x202) := by decide
/-- T48 -/
theorem test_shr_vf : (cycleOf 0x8F06 (State.reset.setReg 0xF 2)).map abf
    = some (0, 0, 0, 0x202) := by decide
/-- T49: `Vy - Vx`, no borrow. -/
theorem test_subn : (cycleOf 0x8AB7 (withAB 0x10 0x20)).map abf = some (0x10, 0x20, 1, 0x202) := by
  decide
/-- T50 -/
theorem test_subn_borrow : (cycleOf 0x8AB7 ((withAB 0x20 0x10).setReg 0xF 1)).map abf
    = some (0xF0, 0x10, 0, 0x202) := by decide
/-- T53 -/
theorem test_shl : (cycleOf 0x8A0E ((withAB 0x40 0).setReg 0xF 1)).map abf
    = some (0x80, 0, 0, 0x202) := by decide
/-- T54 -/
theorem test_shl_drops : (cycleOf 0x8A0E (withAB 0x80 0)).map abf = some (0, 0, 1, 0x202) := by decide
/-- T55, for the draw it gives. -/
theorem test_rnd : abf (State.reset.drawInto 0xA 0x0F 0xB7) = (7, 0, 0, 0x202) := by decide
/-- T56, for the draw it gives. -/
theorem test_rnd_mask_zero : abf ((withAB 0x55 0).drawInto 0xA 0x00 0xFF) = (0, 0, 0, 0x202) := by
  decide

/-! ### Address register and memory -/

/-- T59 -/
theorem test_ld_i : (cycleOf 0xAFFF State.reset).map (·.i) = some 0x0FFF := by decide
/-- T61 -/
theorem test_add_i_wraps :
    (cycleOf 0xFA1E ((withAB 1 0).setI 0x0FFF)).map (fun t => (t.i, t.reg 0xF)) = some (0, 0) := by
  decide
/-- T62 -/
theorem test_add_i_wraps_far :
    (cycleOf 0xFA1E ((withAB 0xFF 0).setI 0x0F80)).map (·.i) = some 0x007F := by decide
/-- T64 -/
theorem test_ld_font_low_nibble : (cycleOf 0xFA29 (withAB 0x1F 0)).map (·.i) = some 0x004B := by
  decide
/-- T65 -/
theorem test_bcd : (cycleOf 0xFA33 ((withAB 0x9C 0).setI 0x300)).map (·.mem.readBytes 0x2FF 5)
    = some [0, 1, 5, 6, 0] := by decide
/-- T69 -/
theorem test_bcd_past_end : (cycleOf 0xFA33 ((withAB 0x7B 0).setI 0xFFE)).map
    (fun t => (faultOf t, t.mem.readBytes 0xFFE 2))
      = some ((.faulted, ⟨.memOutOfRange, 0x0200, 0xFA33, 0x1000⟩), [0, 0]) := by decide
/-- V0 to V3 of T70. -/
def fourRegs : State := ((State.reset.setReg 0 1).setReg 1 2).setReg 2 3 |>.setReg 3 4
/-- T70 -/
theorem test_dump : (cycleOf 0xF255 (fourRegs.setI 0x400)).map
    (fun t => (t.mem.readBytes 0x400 4, t.i)) = some ([1, 2, 3, 0], 0x400) := by decide
/-- T72 -/
theorem test_dump_past_end : (cycleOf 0xF155 (fourRegs.setI 0xFFF)).map
    (fun t => (faultOf t, t.mem.read 0xFFF))
      = some ((.faulted, ⟨.memOutOfRange, 0x0200, 0xF155, 0x1000⟩), 0) := by decide
/-- T74 -/
theorem test_load_regs : (cycleOf 0xF265 (((State.reset.setReg 3 0x77).setI 0x400).storeBytes 0x400
    [0xAA, 0xBB, 0xCC, 0xDD])).map (fun t => (t.reg 0, t.reg 1, t.reg 2, t.reg 3, t.i))
      = some (0xAA, 0xBB, 0xCC, 0x77, 0x400) := by decide
/-- T76, under its premise on the open parameter FONT_TABLE. -/
theorem test_load_font_byte (h : Config.StandardFont) :
    (cycleOf 0xF065 State.reset).map (·.reg 0) = some 0xF0 := by
  have e : (cycleOf 0xF065 State.reset).map (·.reg 0) = some Config.fontTable[0] := rfl
  rw [e, show Config.fontTable = Config.standardFont from h]; rfl

/-! ### Display -/

/-- T77 -/
theorem test_cls : (cycleOf 0x00E0 (State.reset.setFb
    (toggleCell (toggleCell (toggleCell blankFb 0) 65) 2047))).map (fun t => (litOf [0, 1, 65, 2047] t, t.redraw))
      = some ([], true) := by decide +kernel
/-- T82: `FF 81` at column 0, row 31 wraps to row 0. -/
theorem test_drw_wraps : (cycleOf 0xD012 ((State.reset.setReg 1 0x1F).setI 0x300 |>.storeBytes 0x300
    [0xFF, 0x81])).map (fun t => (litOf [0, 1, 6, 7, 8, 64, 1983, 1984, 1991, 1992] t, t.reg 0xF, t.redraw))
      = some ([0, 7, 1984, 1991], 0, true) := by decide +kernel
/-- T88: one cell on, one off. -/
theorem test_drw_collides : (cycleOf 0xD011 ((State.reset.setFb (toggleCell blankFb 1)).setI 0x300
    |>.storeBytes 0x300 [0xC0])).map (fun t => (litOf [0, 1, 2, 64] t, t.reg 0xF)) = some ([0], 1) := by
  decide +kernel

/-! ### Keys and timers -/

/-- T89 -/
theorem test_skp : (cycleOf 0xEA9E { withAB 5 0 with key := some 5 }).map (·.pc) = some 0x204 := by
  decide
/-- T92 -/
theorem test_skp_whole_register :
    (cycleOf 0xEA9E { withAB 0x15 0 with key := some 5 }).map (·.pc) = some 0x202 := by decide
/-- T93 -/
theorem test_sknp_no_key : (cycleOf 0xEAA1 (withAB 5 0)).map (·.pc) = some 0x204 := by decide
/-- T94 -/
theorem test_sknp_key : (cycleOf 0xEAA1 { withAB 5 0 with key := some 5 }).map (·.pc)
    = some 0x202 := by decide
/-- T96 -/
theorem test_ld_from_dt : (cycleOf 0xFA07 { State.reset with dt := 0x10 }).map
    (fun t => (t.reg 0xA, t.dt)) = some (0x10, 0x0F) := by decide
/-- T98 -/
theorem test_key_wait : (cycleOf 0xFA0A { State.reset with dt := 3, st := 2 }).map
    (fun t => (t.pc, t.reg 0xA, t.dt, t.st)) = some (0x200, 0, 2, 1) := by decide
/-- T100 -/
theorem test_key_zero : (cycleOf 0xFA0A { withAB 0xFF 0 with key := some 0 }).map
    (fun t => (t.pc, t.reg 0xA, t.key)) = some (0x202, 0, some 0) := by decide
/-- T101 -/
theorem test_ld_dt : (cycleOf 0xFA15 (withAB 5 0)).map (·.dt) = some 4 := by decide
/-- T104 -/
theorem test_ld_st_edge : (cycleOf 0xFA18 (withAB 1 0)).map (fun t => (t.st, t.out.soundOn))
    = some (0, true) := by decide
/-- T106 -/
theorem test_ld_st_no_edge : (cycleOf 0xFA18 { withAB 0 0 with st := 1 }).map
    (fun t => (t.st, t.out.soundOn)) = some (0, false) := by decide

/-! ### The cycle -/

/-- T107 -/
theorem test_timer_phase : (cycleOf 0x6000 { State.reset with st := 1, dt := 1 }).map
    (fun t => (t.dt, t.st, t.out.soundOn)) = some (0, 0, true) := by decide
/-- T117 -/
theorem test_unknown : (cycleOf 0xE000 { State.reset with st := 1 }).map
    (fun t => (t.pc, t.st, t.run, t.out)) = some (0x200, 0, .ready, ⟨true, some ⟨0x200, 0xE000⟩, none⟩) := by
  decide
/-- T118 -/
theorem test_fetch_second_byte : step { State.reset with pc := 0xFFF }
    = .next ({ State.reset with pc := 0xFFF }.raise .memOutOfRange 0 0x1000) := rfl
/-- T119 -/
theorem test_fetch_past_end : step { State.reset with pc := 0x1000 }
    = .next ({ State.reset with pc := 0x1000 }.raise .memOutOfRange 0 0x1000) := rfl
/-- T120 -/
theorem test_fetch_last_pc :
    (cycleOf 0x00E0 { State.reset with pc := 0xFFE }).map (fun t => (t.pc, t.redraw, t.run))
      = some (0x1000, true, .ready) := by decide
/-- T121 -/
theorem test_odd_pc : (cycleOf 0x6A01 { State.reset with pc := 0x201 }).map
    (fun t => (t.pc, t.reg 0xA)) = some (0x203, 1) := by decide

/-! ### The host's operations -/

/-- H5 -/
theorem test_load : ((State.reset.load [0x11, 0x22, 0x33]).2.load [0xAA]).2.mem.readBytes 0x1FF 5
    = [0, 0xAA, 0x22, 0x33, 0] := by decide
/-- H4 -/
theorem test_load_too_large :
    State.reset.load (List.replicate 3585 0xFF) = (.loadTooLarge 3585, State.reset) := by
  unfold State.load; rw [if_pos (by rw [List.length_replicate]; decide), List.length_replicate]
/-- H6 -/
theorem test_set_key_input : ((State.reset.setKeyInput (some 7)).setKeyInput (some 3)).key = some 3 := by
  decide
/-- H9 -/
theorem test_faulted_cycle : step { State.reset with run := .faulted, st := 1 }
    = .next { State.reset with run := .faulted, st := 1 } := rfl
/-- The spec's ports for T9's fault (R169): code 2. -/
theorem test_fault_ports :
    (cycleOf 0x2300 { State.reset with sp := 16 }).map
      (fun t => (t.outPorts.fault, t.outPorts.faultCode, t.outPorts.faultOp)) = some (true, 2, 0x2300) := by
  decide
/-- No port asserted (R169); a key latched by an earlier clock is let go. -/
def idlePorts : InPorts := ⟨false, false, 0, false, 0, false, 0, 0, false, false⟩
/-- A core behind its ports, with no load stream. -/
def atPorts (s : State) : PortState := ⟨s, false, false⟩
/-- What a clock at the ports leaves, if it answers a next state. -/
def clockOf (p : PortState) (i : InPorts) : Option PortState :=
  match p.clock i with
  | .next q => some q
  | _ => none
/-- T55 at the ports: `step` with `rnd` = 0xB7. -/
theorem test_ports_step_rnd :
    (clockOf (atPorts (State.reset.withFetchWord 16 0xCA0F))
      { idlePorts with step := true, rnd := 0xB7 }).map (fun p => (p.core.reg 0xA, p.core.pc))
        = some (7, 0x202) := by decide
/-- The ends of the load stream (R169): offset 3583 goes to 0xFFF and `ld_last` ends it; offset 3584 is
refused with `ld_err`. -/
theorem test_ports_load :
    (clockOf (atPorts State.reset)
      { idlePorts with ldEn := true, ldAddr := 3583, ldData := 0xAA, ldLast := true }).map
        (fun p => (p.core.mem, p.ldOpen, p.ldErr)) = some ([(0xFFF, 0xAA)], false, false) ∧
    (clockOf (atPorts State.reset) { idlePorts with ldEn := true, ldAddr := 3584, ldData := 0xAA }).map
        (fun p => (p.core.mem, p.ldOpen, p.ldErr)) = some ([], true, true) := by decide
/-- The latch on every clock, `redraw_ack`, and `rst` out of FAULTED (R169; H1, H8). -/
theorem test_ports_key_ack_rst :
    (clockOf (atPorts (State.reset.setFb blankFb))
      { idlePorts with keyValid := true, keyCode := 7, redrawAck := true }).map
        (fun p => (p.core.key, p.core.redraw)) = some (some 7, false) ∧
    (clockOf ⟨State.reset.raise .stackUnderflow 0x00EE 0, true, true⟩
      { idlePorts with rst := true, step := true }).map
        (fun p => (p.core.run, p.core.pc, p.ldOpen, p.ldErr)) = some (.ready, 0x200, false, false) := by
  decide
/-- The halting reading of a raise (R187). -/
theorem test_halting_step : haltingStep { State.reset with pc := 0xFFF }
    = .fault (.terminal ⟨.memOutOfRange, 0xFFF, 0, 0x1000⟩) := rfl

/-! ### Witnesses: states and operands that meet the hypotheses of the statements

Each is named after the statement, with the clause where it has several. A statement without
hypotheses (an equivalence, or a result for every state and operand) needs none. -/

/-- DecodeFollowsOpcodeMap: a word, its instruction, and the one row it selects. -/
theorem witness_DecodeFollowsOpcodeMap :
    decodeWord 0x8ABE = .ok (.shl 0xA 0xB) ∧ (⟨0xF00F, 0x800E⟩ : OpcodeRow) ∈ opcodeRows ∧
      OpcodeRow.selects ⟨0xF00F, 0x800E⟩ 0x8ABE = true := by decide

/-- IgnoredBitsDoNothing: the least depth at which RET does not raise. -/
theorem witness_IgnoredBitsDoNothing : 0 < ({ State.reset with sp := 1 } : State).sp.val := by decide

/-- ResetValues: the ends of the address, stack and cell ranges. -/
theorem witness_ResetValues : (79 < 80 ∧ 80 ≤ 80) ∧ 15 < 16 ∧ 2047 < 2048 := by decide

/-- FetchIsBigEndian: the last legal pc; and the last two bytes of the longest image. -/
theorem witness_FetchIsBigEndian : ({ State.reset with pc := 0xFFE } : State).pc.toNat ≤ 0xFFE ∧
    3582 + 1 < (List.replicate 3584 (0 : Byte)).length ∧
    (List.replicate 3584 (0 : Byte)).length ≤ 3584 ∧
    ({ State.reset with pc := 0xFFE } : State).pc.toNat = 0x200 + 3582 := by
  rw [List.length_replicate]; decide

/-- A READY core at the last legal pc with a word stored there. -/
def lastPc (op : Nat) : State := { State.reset with pc := 0xFFE }.withFetchWord 16 op

/-- StepRunsDecodedInstruction, the clause of a cycle that completes. -/
theorem witness_StepRunsDecodedInstruction_ready :
    (lastPc 0x6A01).run = .ready ∧ (lastPc 0x6A01).pc.toNat ≤ 0xFFE ∧
      decodeWord (wordOfBytes ((lastPc 0x6A01).mem.read (lastPc 0x6A01).pc.toNat)
        ((lastPc 0x6A01).mem.read ((lastPc 0x6A01).pc.toNat + 1))) = .ok (.ldImm 0xA 1) ∧
      ∃ t, exec (.ldImm 0xA 1) (lastPc 0x6A01) = .next t ∧ t.run = .ready :=
  ⟨by decide, by decide, by decide, _, rfl, by decide⟩

/-- StepRunsDecodedInstruction, the clause of a cycle that raises. -/
theorem witness_StepRunsDecodedInstruction_raises :
    (lastPc 0x00EE).run = .ready ∧ (lastPc 0x00EE).pc.toNat ≤ 0xFFE ∧
      decodeWord (wordOfBytes ((lastPc 0x00EE).mem.read (lastPc 0x00EE).pc.toNat)
        ((lastPc 0x00EE).mem.read ((lastPc 0x00EE).pc.toNat + 1))) = .ok (.ret 0) ∧
      ∃ t, exec (.ret 0) (lastPc 0x00EE) = .next t ∧ t.run = .faulted :=
  ⟨by decide, by decide, by decide, _, rfl, by decide⟩

/-- A READY core with ST at 1 and a word stored at pc. -/
def soundOne (op : Nat) : State := { State.reset with st := 1 }.withFetchWord 16 op

/-- TimerPhaseTicks, SoundPulseOnOneToZero (READY): a known word, ST about to reach 0. -/
theorem witness_TimerPhaseTicks_known : (soundOne 0x6000).run = .ready ∧
    ∃ t, step (soundOne 0x6000) = .next t ∧ t.run = .ready := ⟨by decide, _, rfl, by decide⟩

/-- TimerPhaseTicks: an unknown word. -/
theorem witness_TimerPhaseTicks_unknown : (soundOne 0xE000).run = .ready ∧
    ∃ t, step (soundOne 0xE000) = .next t ∧ t.run = .ready := ⟨by decide, _, rfl, by decide⟩

/-- UnknownOpcodeStalls, UnknownOpcodeLivelock. -/
theorem witness_UnknownOpcodeStalls : (soundOne 0x8AB8).run = .ready ∧
    (soundOne 0x8AB8).fetch = .ok 0x8AB8 ∧ decodeWord 0x8AB8 = .error (.unknownGroup8 0x8AB8) := by
  decide

/-- FetchPastEndRaises: both of its addresses. -/
theorem witness_FetchPastEndRaises :
    (({ State.reset with pc := 0xFFF } : State).run = .ready ∧
      0xFFE < ({ State.reset with pc := 0xFFF } : State).pc.toNat) ∧
    (({ State.reset with pc := 0x1000 } : State).run = .ready ∧
      0xFFE < ({ State.reset with pc := 0x1000 } : State).pc.toNat) := by decide

/-- FaultedCycleChangesNothing, OnlyResetLeavesFaulted (a cycle of a FAULTED core). -/
theorem witness_FaultedCycleChangesNothing :
    (State.reset.raise .stackUnderflow 0x00EE 0).run = .faulted ∧ HostOp.cycle ≠ .reset ∧
      ∃ t, applyHostOp .cycle (State.reset.raise .stackUnderflow 0x00EE 0) = .next t :=
  ⟨by decide, by decide, _, rfl⟩

/-- RaisingCycleIsPrecise, SoundPulseOnOneToZero (FAULTED): an instruction raises, the word fetched. -/
theorem witness_RaisingCycleIsPrecise_instruction : (soundOne 0x00EE).run = .ready ∧
    (soundOne 0x00EE).fetch = .ok 0x00EE ∧
    ∃ t, step (soundOne 0x00EE) = .next t ∧ t.run = .faulted := ⟨by decide, by decide, _, rfl, by decide⟩

/-- RaisingCycleIsPrecise: the fetch raises. -/
theorem witness_RaisingCycleIsPrecise_fetch :
    ({ State.reset with pc := 0xFFF } : State).run = .ready ∧
    ({ State.reset with pc := 0xFFF } : State).fetch = .error 0x1000 ∧
    ∃ t, step { State.reset with pc := 0xFFF } = .next t ∧ t.run = .faulted :=
  ⟨by decide, by decide, _, rfl, by decide⟩

/-- InstructionRaisesExactlyWhen: READY states at the edge of each condition, inside and outside. -/
theorem witness_InstructionRaisesExactlyWhen :
    raisesWhen (.ret 0) State.reset .stackUnderflow ∧
    ¬ raisesWhen (.ret 0) { State.reset with sp := 1 } .stackUnderflow ∧
    raisesWhen (.call 0) { State.reset with sp := 16 } .stackOverflow ∧
    ¬ raisesWhen (.call 0) { State.reset with sp := 15 } .stackOverflow ∧
    raisesWhen (.ldBcd 0) (State.reset.setI 0xFFE) .memOutOfRange ∧
    ¬ raisesWhen (.ldBcd 0) (State.reset.setI 0xFFD) .memOutOfRange ∧
    raisesWhen (.dumpRegs 1) (State.reset.setI 0xFFF) .memOutOfRange ∧
    ¬ raisesWhen (.loadRegs 0) (State.reset.setI 0xFFF) .memOutOfRange ∧
    raisesWhen (.drw 0 0 2) (State.reset.setI 0xFFF) .memOutOfRange ∧
    ¬ raisesWhen (.drw 0 0 1) (State.reset.setI 0xFFF) .memOutOfRange ∧
    ¬ raisesWhen (.drw 0 0 0) (State.reset.setI 0xFFF) .memOutOfRange := by
  simp only [raisesWhen]; decide

/-- TimerWritesInTheirCycle: each of its words fetched by a READY core. -/
theorem witness_TimerWritesInTheirCycle :
    ((soundOne 0xFA15).run = .ready ∧ (soundOne 0xFA15).fetch = .ok (encode (.ldDt 0xA))) ∧
    ((soundOne 0xFA18).run = .ready ∧ (soundOne 0xFA18).fetch = .ok (encode (.ldSt 0xA))) ∧
    ((soundOne 0xFA07).run = .ready ∧ (soundOne 0xFA07).fetch = .ok (encode (.ldFromDt 0xA))) := by
  decide

/-- SoundPulseOnOneToZero: the word fetched is no Fx18. -/
theorem witness_SoundPulseOnOneToZero :
    ∀ x, (soundOne 0x6000).fetch ≠ .ok (encode (.ldSt x)) := by decide

/-- ReturnPopsOrUnderflows: the last entry, the full stack, and the empty stack. -/
theorem witness_ReturnPopsOrUnderflows : 0 < ({ State.reset with sp := 1 } : State).sp.val ∧
    0 < ({ State.reset with sp := 16 } : State).sp.val ∧ State.reset.sp.val = 0 := by decide

/-- CallPushesOrOverflows, CallThenReturn: the empty stack, the last free entry, and the full stack. -/
theorem witness_CallPushesOrOverflows : State.reset.sp.val < 16 ∧
    ({ State.reset with sp := 15 } : State).sp.val < 16 ∧
    ({ State.reset with sp := 16 } : State).sp.val = 16 := by decide

/-- JumpWithOffset: an offset of the kind its premise names exists; BNNN_OFFSET itself is open. -/
theorem witness_JumpWithOffset : ∃ f : Word → Word, ∀ op, f op = op &&& 0x0FFF#16 :=
  ⟨fun op => op &&& 0x0FFF#16, fun _ => rfl⟩

/-- The clauses `x ≠ 15`, `r ≠ x` of the arithmetic statements, and AssignAndLogic's list. -/
theorem witness_AssignAndLogic : (0xA : RegIdx) ≠ 15 ∧ (0xB : RegIdx) ≠ 0xA ∧ (0xB : RegIdx) ≠ 15 ∧
    ∃ f : Bool → Bool → Bool, (Instr.orReg 0xA 0xB, f) ∈
      [(Instr.ldReg 0xA 0xB, fun _ b => b), (Instr.orReg 0xA 0xB, fun a b => a || b),
        (Instr.andReg 0xA 0xB, fun a b => a && b), (Instr.xorReg 0xA 0xB, fun a b => a != b)] :=
  ⟨by decide, by decide, by decide, _, List.mem_cons_of_mem _ List.mem_cons_self⟩

/-- SubtractBorrow: equal operands (no borrow) and 16 less 32 (a borrow). -/
theorem witness_SubtractBorrow :
    ((withAB 0x33 0x33).reg 0xA).toNat ≥ ((withAB 0x33 0x33).reg 0xB).toNat ∧
    ¬ ((withAB 0x10 0x20).reg 0xA).toNat ≥ ((withAB 0x10 0x20).reg 0xB).toNat := by decide

/-- IndexRegisterWrites: values of each of its three instructions at their upper ends. -/
theorem witness_IndexRegisterWrites : (0xFFF : Addr).toNat = 4095 ∧
    (((withAB 1 0).setI 0xFFF).i.toNat + (((withAB 1 0).setI 0xFFF).reg 0xA).toNat) % 4096 = 0 ∧
    5 * (((withAB 0xFF 0).reg 0xA).toNat % 16) = 75 := by decide

/-- BcdDigitsStored and MemoryPastEndRaises: the last I that fits and the first that does not. -/
theorem witness_BcdDigitsStored : (State.reset.setI 0xFFD).i.toNat + 2 ≤ 0xFFF ∧
    0xFFF < (State.reset.setI 0xFFE).i.toNat + 2 := by decide

/-- RegisterDump, RegisterLoad and MemoryPastEndRaises: all registers at the last I that fits, the
first register alone at 0xFFF, and two registers there. -/
theorem witness_RegisterDump :
    (State.reset.setI 0xFF0).i.toNat + (15 : RegIdx).val ≤ 0xFFF ∧
    (State.reset.setI 0xFFF).i.toNat + (0 : RegIdx).val ≤ 0xFFF ∧
    0xFFF < (State.reset.setI 0xFFF).i.toNat + (1 : RegIdx).val := by decide

/-- FetchSeesStoredBytes: V0 and V1 are stored over the word after the instruction. -/
theorem witness_FetchSeesStoredBytes :
    (0 + 1 ≤ (1 : RegIdx).val) ∧ (State.reset.setI 0x202).i.toNat + (1 : RegIdx).val ≤ 0xFFF ∧
    ∃ t, exec (.dumpRegs 1) (State.reset.setI 0x202) = .next t ∧
      t.pc.toNat = (State.reset.setI 0x202).i.toNat + 0 := ⟨by decide, by decide, _, rfl, by decide⟩

/-- CanonicalMemoriesReadAlikeAreEqual: two stores in either order. -/
theorem witness_CanonicalMemoriesReadAlikeAreEqual :
    Memory.wf (Memory.write (Memory.write [] 0xFFF 1) 0x300 2) = true ∧
    Memory.wf (Memory.write (Memory.write [] 0x300 2) 0xFFF 1) = true ∧
    ∀ a, (Memory.write (Memory.write [] 0xFFF 1) 0x300 2).read a
      = (Memory.write (Memory.write [] 0x300 2) 0xFFF 1).read a :=
  ⟨by decide, by decide, fun a => congrArg (Memory.read · a) (by decide)⟩

/-- DrawFlipsCoveredCells, DrawTwiceRestores, MemoryPastEndRaises: no row at the end of memory, one row
there, fifteen rows to the end, and a row past it; coordinates outside VF. -/
theorem witness_DrawFlipsCoveredCells :
    ((0 : RowCount).val = 0 ∨ (State.reset.setI 0xFFF).i.toNat + (0 : RowCount).val - 1 ≤ 0xFFF) ∧
    ((1 : RowCount).val = 0 ∨ (State.reset.setI 0xFFF).i.toNat + (1 : RowCount).val - 1 ≤ 0xFFF) ∧
    ((15 : RowCount).val = 0 ∨ (State.reset.setI 0xFF1).i.toNat + (15 : RowCount).val - 1 ≤ 0xFFF) ∧
    (0 < (2 : RowCount).val ∧ 0xFFF < (State.reset.setI 0xFFF).i.toNat + (2 : RowCount).val - 1) ∧
    (0xA : RegIdx) ≠ 15 := by decide

/-- A lit cell 0 and a sprite row 0x80 at I. -/
def pixelLit : State :=
  ((State.reset.setFb (toggleCell blankFb 0)).setI 0x300).storeBytes 0x300 [0x80]

/-- DrawFlipsCoveredCells: a collision (S6, second draw). -/
theorem witness_DrawFlipsCoveredCells_collision :
    ∃ k, k < 2048 ∧ cell pixelLit.fb k = true ∧ spriteCovers pixelLit 0 0xA 1 k :=
  ⟨0, by decide, by decide +kernel, 0, 0, by decide, by decide, by decide +kernel, by decide +kernel⟩

/-- DrawFlipsCoveredCells: none, with no rows. -/
theorem witness_DrawFlipsCoveredCells_none :
    ¬ ∃ k, k < 2048 ∧ cell pixelLit.fb k = true ∧ spriteCovers pixelLit 0 0xA 0 k :=
  fun ⟨_, _, _, row, _, h, _⟩ => absurd h (Nat.not_lt_zero row)

/-- KeySkips: the key in the register, another one, a register above 15, and no key. -/
theorem witness_KeySkips :
    (∃ k : Nibble, (some 5 : Option Nibble) = some k ∧ k.toNat = ((withAB 5 0).reg 0xA).toNat) ∧
    (¬ ∃ k : Nibble, (some 5 : Option Nibble) = some k ∧ k.toNat = ((withAB 0x15 0).reg 0xA).toNat) ∧
    (¬ ∃ k : Nibble, (none : Option Nibble) = some k ∧ k.toNat = ((withAB 5 0).reg 0xA).toNat) := by
  decide

/-- KeyWait, its clauses of one execution: no key, and the least key. -/
theorem witness_KeyWait : State.reset.key = none ∧
    ({ State.reset with key := some 0 } : State).key = some 0 := by decide

/-- KeyWait, its clause of many cycles. -/
theorem witness_KeyWait_cycles : (soundOne 0xFA0A).run = .ready ∧ (soundOne 0xFA0A).key = none ∧
    (soundOne 0xFA0A).fetch = .ok (encode (.ldKey 0xA)) := by decide

/-- RegisterFrame: an instruction that writes VA, and VB outside what it writes. -/
theorem witness_RegisterFrame : (∃ t, exec (.ldImm 0xA 1) State.reset = .next t) ∧
    ¬ writesReg (.ldImm 0xA 1) 0xB := ⟨⟨_, rfl⟩, by simp only [writesReg]; decide⟩

/-- MemoryFrame: BCD at the end of memory and the byte before its run; and a BCD that raises. -/
theorem witness_MemoryFrame :
    (∃ t, exec (.ldBcd 0xA) (State.reset.setI 0xFFD) = .next t) ∧
    0xFFC < (storedRun (.ldBcd 0xA) (State.reset.setI 0xFFD)).1 ∧
    (State.reset.setI 0xFFE).run = .ready ∧
    ∃ t, exec (.ldBcd 0xA) (State.reset.setI 0xFFE) = .next t ∧ t.run = .faulted :=
  ⟨⟨_, rfl⟩, by decide, by decide, _, rfl, by decide⟩

/-- SpecialStateFrame: for each of its clauses an instruction that changes the field. -/
theorem witness_SpecialStateFrame :
    (∃ t, exec (.ldI 1) State.reset = .next t ∧ t.i ≠ State.reset.i) ∧
    (∃ t, exec (.call 1) State.reset = .next t ∧ t.stack ≠ State.reset.stack ∧
      t.sp ≠ State.reset.sp) ∧
    (∃ t, exec (.ldDt 0xA) (withAB 1 0) = .next t ∧ t.dt ≠ (withAB 1 0).dt) ∧
    (∃ t, exec (.ldSt 0xA) (withAB 1 0) = .next t ∧ t.st ≠ (withAB 1 0).st) ∧
    (∃ t, exec (.cls 0) State.reset = .next t ∧ t.redraw ≠ State.reset.redraw) ∧
    (∃ t, exec (.rnd 0xA 1) State.reset = .next t ∧ t.draws ≠ State.reset.draws) ∧
    (∃ t, exec (.ret 0) State.reset = .next t ∧ t.run ≠ State.reset.run) :=
  ⟨⟨_, rfl, by decide⟩, ⟨_, rfl, by decide, by decide⟩, ⟨_, rfl, by decide⟩, ⟨_, rfl, by decide⟩,
    ⟨_, rfl, by decide⟩, ⟨_, rfl, by decide⟩, ⟨_, rfl, by decide⟩⟩

/-- ProgramCounterAfter: an instruction outside the four, completing and raising. -/
theorem witness_ProgramCounterAfter :
    (∃ t, exec (.ldBcd 0xA) State.reset = .next t ∧ State.reset.run = .ready ∧
      (∀ ign, Instr.ldBcd 0xA ≠ .ret ign) ∧
      (∀ nnn, Instr.ldBcd 0xA ≠ .jp nnn ∧ Instr.ldBcd 0xA ≠ .call nnn ∧ Instr.ldBcd 0xA ≠ .jpV0 nnn)) ∧
    (∃ t, exec (.ldImm 0xA 1) State.reset = .next t ∧ t.run = .ready) ∧
    (∃ t, exec (.ldBcd 0xA) (State.reset.setI 0xFFE) = .next t ∧ t.run = .faulted) :=
  ⟨⟨_, rfl, rfl, by simp, by simp⟩, ⟨_, rfl, rfl⟩, ⟨_, rfl, rfl⟩⟩

/-- StepKeepsInvariant, HostRunsKeepInvariant: a state with an entry on the stack and a byte stored. -/
theorem witness_StepKeepsInvariant :
    State.Inv { State.reset with sp := 1, stack := State.reset.stack.set 0 0x1000, i := 0xFFF,
                                 mem := [(0x300, 1)] } where
  mem_wf := by decide
  index_lt := by decide
  stack_le := by decide
  ready_clear := fun _ => ⟨rfl, rfl⟩
  faulted_record := fun h => by cases h
  faulted_quiet := fun h => by cases h

/-- HiddenStateDoesNotLeak: a READY core whose step completes, and one whose step raises. -/
theorem witness_HiddenStateDoesNotLeak :
    ((soundOne 0xFA18).run = .ready ∧ ∃ t, step (soundOne 0xFA18) = .next t ∧ t.run = .ready) ∧
    ((soundOne 0x00EE).run = .ready ∧ ∃ t, step (soundOne 0x00EE) = .next t ∧ t.run = .faulted) :=
  ⟨⟨by decide, _, rfl, by decide⟩, by decide, _, rfl, by decide⟩

/-- SelfJumpOnlyCountsDown: T5's self-jump, with ST at 1. -/
theorem witness_SelfJumpOnlyCountsDown : (soundOne 0x1200).atSelfJump :=
  ⟨by decide, 0x200, by decide, by decide⟩

/-- LoadStoresImageOrNothing: the least image too long, the longest that fits, and the empty one. -/
theorem witness_LoadStoresImageOrNothing : 3584 < (List.replicate 3585 (0 : Byte)).length ∧
    (List.replicate 3584 (0 : Byte)).length ≤ 3584 ∧ ([] : List Byte).length ≤ 3584 := by
  rw [List.length_replicate, List.length_replicate]; decide

/-- HostOwnsLatchAndRedraw: a load, with the redraw flag set. -/
theorem witness_HostOwnsLatchAndRedraw : HostOp.load [1] ≠ .reset ∧
    (∀ k, HostOp.load [1] ≠ .setKeyInput k) ∧ HostOp.load [1] ≠ .ackRedraw ∧
    ({ State.reset with redraw := true } : State).redraw = true ∧
    ∃ t, applyHostOp (.load [1]) { State.reset with redraw := true } = .next t :=
  ⟨by simp, by simp, by simp, rfl, _, rfl⟩

/-- StepAlwaysAnswersNext and a program after reset: a placed word runs in the first step (log 14). -/
theorem test_first_step_runs_placed_word :
    step (State.reset.withFetchWord 16 0x6ABC)
      = finishCycle (exec (.ldImm 0xA 0xBC) (State.reset.withFetchWord 16 0x6ABC)) := rfl

/-- With no program loaded the core reports the word 0x0000 at 0x200 (T110, log 14). -/
theorem test_reset_without_program :
    step State.reset = .next (State.reset.unknownOpcode 0x0000) := rfl

end Sys2Proof.Tests
end

section
/-! PROOFS. Fetching from memory, and an image laid into it (spec/20_memory.md R43, R44). -/

namespace Sys2Proof.Machine

variable {s : State} {image : List Byte}

/-- Inside the address space a fetch reads the byte at `pc` into bits 15-8 and the next one into
bits 7-0 (R43). -/
theorem State.fetch_bigEndian (h : s.pc.toNat ≤ 0xFFE) : ∃ op : Word, s.fetch = .ok op ∧
    op.toNat = (s.mem.read s.pc.toNat).toNat * 256 + (s.mem.read (s.pc.toNat + 1)).toNat :=
  ⟨_, State.fetch_eq_ok.mpr ⟨h, rfl⟩, toNat_wordOfBytes _ _⟩

/-- A load of an image too long for program memory changes nothing (R162). -/
theorem State.load_of_too_large (h : 3584 < image.length) :
    s.load image = (.loadTooLarge image.length, s) :=
  if_pos h

/-- A load of an image that fits stores it from 0x200 up (R162). -/
theorem State.load_of_fits (h : image.length ≤ 3584) :
    s.load image = (.ok, s.storeBytes 0x200 image) :=
  if_neg (Nat.not_lt.mpr h)

/-- After a load that fits, the byte at 0x200 + k is byte k of the image (R44, R162). -/
theorem State.read_load {k : Nat} (hk : k < image.length) (hfit : image.length ≤ 3584) :
    (s.load image).2.mem.read (0x200 + k) = image[k] := by
  have hrun : 0x200 ≤ 0x200 + k ∧ 0x200 + k < 0x200 + image.length := by omega
  rw [State.load_of_fits hfit, State.storeBytes_mem, Memory.read_writeBytes _ _ _ _ (by omega),
    dif_pos hrun]
  simp only [Nat.add_sub_cancel_left]

/-- A load leaves pc alone, whether or not the image fits (R162). -/
@[simp] theorem State.load_pc : (s.load image).2.pc = s.pc := by
  rcases Nat.lt_or_ge 3584 image.length with h | h
  · rw [State.load_of_too_large h]
  · rw [State.load_of_fits h, State.storeBytes_pc]

/-- Settles O8: the big-endian fetch, read through what a load leaves at the two addresses. -/
theorem fetchIsBigEndian : Obligations.FetchIsBigEndian := by
  refine ⟨fun s hpc => State.fetch_bigEndian hpc, fun s image k hk hfit hpc => ?_⟩
  have hread0 := State.read_load (s := s) (k := k) (by omega) hfit
  have hread1 := State.read_load (s := s) hk hfit
  have hfetch := State.fetch_bigEndian (s := (s.load image).2) (by rw [State.load_pc]; omega)
  rwa [State.load_pc, hpc, Nat.add_assoc, hread0, hread1] at hfetch

end Sys2Proof.Machine
end

section
/-! PROOFS. The loads and additions of an immediate (spec/42_alu.md R110, R111). -/

namespace Sys2Proof.Machine

variable {s : State} {x r : RegIdx} {b : Byte}

/-- An instruction's opcode carries the fixed bits of its row of the opcode map (R64). -/
theorem encode_and_mask {i : Instr} (h : Laws.FixedBits.Statement i) :
    encode i &&& i.row.mask = i.row.value :=
  eq_of_beq h

/-- The sum of two bytes is reduced modulo 256 (R122(b)). -/
theorem toNat_addWrap (a b : Byte) : (addWrap a b).toNat = (a.toNat + b.toNat) % 256 := by
  rw [addWrap, BitVec.toNat_ofNat, Nat.mod_mod]

/-- A register holds what was written to it (R21). -/
theorem State.reg_setReg_same : (s.setReg x b).reg x = b := by
  rw [State.reg_setReg, if_pos rfl]

/-- A write to one register leaves every other one (R21). -/
theorem State.reg_setReg_of_ne (h : r ≠ x) : (s.setReg x b).reg r = s.reg r := by
  rw [State.reg_setReg, if_neg h]

/-- Settles O27: the one write is of the immediate, and the frame is that of a register write
followed by the advance. -/
theorem loadImmediate : Obligations.LoadImmediate := fun x nn s =>
  ⟨encode_and_mask (Laws.FixedBits.ldImm x nn), (s.setReg x nn).advance, rfl,
    State.reg_setReg_same, fun _ hr => State.reg_setReg_of_ne hr, rfl, rfl⟩

/-- Settles O28: the one write is of the reduced sum, so VF changes only as the destination. -/
theorem addImmediateWraps : Obligations.AddImmediateWraps := by
  intro x nn s
  have hsum : ((s.setReg x (addWrap (s.reg x) nn)).reg x).toNat
      = ((s.reg x).toNat + nn.toNat) % 256 := by
    rw [State.reg_setReg_same, toNat_addWrap]
  exact ⟨encode_and_mask (Laws.FixedBits.addImm x nn),
    (s.setReg x (addWrap (s.reg x) nn)).advance, rfl,
    hsum, fun _ hr => State.reg_setReg_of_ne hr, rfl, rfl⟩

end Sys2Proof.Machine
end

section
/-! PROOFS. Cycles that only run the timers down, and the wait for a key (spec/40_cycle.md R84,
spec/45_keys_timers.md R153). -/

namespace Sys2Proof.Machine

variable {s : State} {x : RegIdx} {k : Nibble}

/-! ### Runs of the timer phase alone -/

/-- The cycle of an instruction that leaves the core READY ends with the timer phase (R80, R84). -/
theorem finishCycle_of_ready (hr : s.run = .ready) :
    finishCycle (.next s) = .next (s.timers none) :=
  finishCycle_eq_next.mpr ⟨s, rfl, .inl ⟨hr, rfl⟩⟩

/-- The timer phase writes neither pc nor memory, so the next cycle fetches the same word (R84). -/
@[simp] theorem State.timers_fetch (d : Option IllegalOpcode) : (s.timers d).fetch = s.fetch := rfl

/-- `n` timer phases in a row, each with the diagnostic `d` (R84, R85). -/
def State.timersFor (d : Option IllegalOpcode) : Nat → State → State
  | 0, s => s
  | n + 1, s => State.timersFor d n (s.timers d)

/-- `n` timer phases take `n` from DT and stop at 0 (R84). -/
theorem State.toNat_dt_timersFor (d : Option IllegalOpcode) (n : Nat) :
    (s.timersFor d n).dt.toNat = s.dt.toNat - n := by
  induction n generalizing s with
  | zero => rfl
  | succ n ih => rw [State.timersFor, ih, State.timers_dt, toNat_tick]; omega

/-- `n` timer phases take `n` from ST and stop at 0 (R84). -/
theorem State.toNat_st_timersFor (d : Option IllegalOpcode) (n : Nat) :
    (s.timersFor d n).st.toNat = s.st.toNat - n := by
  induction n generalizing s with
  | zero => rfl
  | succ n ih => rw [State.timersFor, ih, State.timers_st, toNat_tick]; omega

/-- Any number of timer phases writes DT, ST and the outputs, and nothing else (R84, R85). -/
theorem State.timersFor_frame (d : Option IllegalOpcode) (n : Nat) : s.timersFor d n =
    { s with dt := (s.timersFor d n).dt, st := (s.timersFor d n).st,
             out := (s.timersFor d n).out } := by
  induction n generalizing s with
  | zero => rfl
  | succ n ih => exact ih (s := s.timers d)

/-- Where every step from a state of `P` is a timer phase that stays in `P`, a run is timer phases
alone. -/
theorem run_eq_timersFor {P : State → Prop} {d : Option IllegalOpcode}
    (hstep : ∀ u, P u → step u = .next (u.timers d)) (hkeep : ∀ u, P u → P (u.timers d))
    (n : Nat) (hs : P s) : Host.Core.run Sys2Proof.core n s = .next (s.timersFor d n) := by
  induction n generalizing s with
  | zero => rfl
  | succ n ih => rw [run_succ n (hstep s hs)]; exact ih (hkeep s hs)

/-! ### `Fx0A` -/

/-- The opcode of `Fx0A` is read back as `Fx0A` (R63, R64). -/
theorem decodeWord_encode_ldKey : decodeWord (encode (.ldKey x)) = .ok (.ldKey x) := by
  simp [encode, decodeWord, decodeGroupF]

/-- With no key latched `Fx0A` writes nothing, pc included (R153). -/
theorem exec_ldKey_of_no_key (hk : s.key = none) : exec (.ldKey x) s = .next s := by
  simp only [exec, execLdKey, hk]

/-- With a key latched `Fx0A` writes it to its register and advances (R153). -/
theorem exec_ldKey_of_key (hk : s.key = some k) :
    exec (.ldKey x) s = .next (s.setReg x (k.setWidth 8)).advance := by
  simp only [exec, execLdKey, hk]

/-- A key code keeps its value as a byte (R153). -/
theorem toNat_setWidth_key (k : Nibble) : (k.setWidth 8).toNat = k.toNat :=
  BitVec.toNat_setWidth_of_le (by decide)

/-- A READY core at `Fx0A` with no key latched: it waits (R153). -/
structure State.WaitsForKey (x : RegIdx) (s : State) : Prop where
  ready : s.run = .ready
  noKey : s.key = none
  fetches : s.fetch = .ok (encode (.ldKey x))

/-- A cycle of a waiting core is its timer phase (R153, R84). -/
theorem State.WaitsForKey.step_eq (h : s.WaitsForKey x) : step s = .next (s.timers none) := by
  rw [step_of_decode h.ready h.fetches decodeWord_encode_ldKey, exec_ldKey_of_no_key h.noKey,
    finishCycle_of_ready h.ready]

/-- After its timer phase a waiting core still waits (R153). -/
theorem State.WaitsForKey.timers (h : s.WaitsForKey x) : (s.timers none).WaitsForKey x :=
  ⟨h.ready, h.noKey, by rw [State.timers_fetch, h.fetches]⟩

/-- Settles O46: a waiting cycle is a timer phase after which the core still waits, so a run of them
is timer phases alone; a latched key is one register write and the advance. -/
theorem keyWait : Obligations.KeyWait := by
  refine fun x s => ⟨encode_and_mask (Laws.FixedBits.ldKey x), exec_ldKey_of_no_key,
    fun k hk => ?stores, fun n hr hk hf => ?waits⟩
  case stores =>
    refine ⟨_, exec_ldKey_of_key hk, ?_, fun r hr => State.reg_setReg_of_ne hr, rfl, rfl⟩
    rw [State.advance_reg, State.reg_setReg_same, toNat_setWidth_key]
  case waits =>
    have hwaits : s.WaitsForKey x := ⟨hr, hk, hf⟩
    exact ⟨s.timersFor none n,
      run_eq_timersFor (fun _ => State.WaitsForKey.step_eq) (fun _ => State.WaitsForKey.timers) n
        hwaits,
      State.toNat_dt_timersFor none n, State.toNat_st_timersFor none n,
      State.timersFor_frame none n⟩

end Sys2Proof.Machine
end

section
/-! PROOFS. The key-input operation of the host (spec/50_host_interface.md R164). -/

namespace Sys2Proof.Machine

variable {s : State}

/-- The host operation `set_key_input` always completes, and its one effect is the latch write
(R164). -/
theorem applyHostOp_setKeyInput (k : Option Nibble) :
    applyHostOp (.setKeyInput k) s = .next (s.setKeyInput k) := rfl

/-- Settles O56: the operation answers the latch write, whose one field is the latch. -/
theorem setKeyInputReplacesLatch : Obligations.SetKeyInputReplacesLatch :=
  fun k _ => applyHostOp_setKeyInput k

end Sys2Proof.Machine
end

section
/-! PROOFS. The decoder and the encoder (spec/30_encoding.md R63 to R66). -/

namespace Sys2Proof

variable {op : Word} {i : Instr}

/-! ### Decoding and encoding are inverse (R64) -/

/-- Every instruction is read back from its opcode (R63, R64). -/
theorem decodeWord_encode (i : Instr) : decodeWord (encode i) = .ok i := by
  cases i <;> simp [encode, decodeWord, decodeGroup0, decodeGroup8, decodeGroupE, decodeGroupF]

/-- A word is its top nibble, its x nibble and its low byte, the outer two given by their values. -/
theorem ofXnn_eq {g : Nibble} {nn : Byte} (hg : (fieldGroup op).toNat = g.toNat)
    (hn : (fieldNn op).toNat = nn.toNat) : ofXnn g (fieldX op) nn = op := by
  rw [← BitVec.eq_of_toNat_eq hg, ← BitVec.eq_of_toNat_eq hn, ofXnn_fields]

/-- A word is its four nibbles, the outer two given by their values. -/
theorem ofNibbles_eq {g n : Nibble} (hg : (fieldGroup op).toNat = g.toNat)
    (hn : (fieldN op).toNat = n.toNat) : ofNibbles g (fieldX op) (fieldY op) n = op := by
  rw [← BitVec.eq_of_toNat_eq hg, ← BitVec.eq_of_toNat_eq hn, ofNibbles_fields]

/-- A word is its top nibble, given by its value, and its low 12 bits. -/
theorem ofNnn_eq {g : Nibble} (hg : (fieldGroup op).toNat = g.toNat) :
    ofNnn g (fieldNnn op) = op := by
  rw [← BitVec.eq_of_toNat_eq hg, ofNnn_fields]

theorem encode_of_decodeGroup0 (hg : (fieldGroup op).toNat = 0x0) (h : decodeGroup0 op = .ok i) :
    encode i = op := by
  unfold decodeGroup0 at h
  split at h <;> cases h
  all_goals exact ofXnn_eq hg ‹_›

theorem encode_of_decodeGroup8 (hg : (fieldGroup op).toNat = 0x8) (h : decodeGroup8 op = .ok i) :
    encode i = op := by
  unfold decodeGroup8 at h
  split at h <;> cases h
  all_goals simpa [encode] using ofNibbles_eq hg ‹_›

theorem encode_of_decodeGroupE (hg : (fieldGroup op).toNat = 0xE) (h : decodeGroupE op = .ok i) :
    encode i = op := by
  unfold decodeGroupE at h
  split at h <;> cases h
  all_goals simpa [encode] using ofXnn_eq hg ‹_›

theorem encode_of_decodeGroupF (hg : (fieldGroup op).toNat = 0xF) (h : decodeGroupF op = .ok i) :
    encode i = op := by
  unfold decodeGroupF at h
  split at h <;> cases h
  all_goals simpa [encode] using ofXnn_eq hg ‹_›

/-- A word that decodes is the opcode of the instruction it decodes to (R64). -/
theorem encode_of_decodeWord (h : decodeWord op = .ok i) : encode i = op := by
  have hlt := (fieldGroup op).isLt
  unfold decodeWord at h
  split at h
  case h_1 hg => exact encode_of_decodeGroup0 hg h
  case h_9 hg => exact encode_of_decodeGroup8 hg h
  case h_15 hg => exact encode_of_decodeGroupE hg h
  case h_16 => exact encode_of_decodeGroupF (by grind) h
  case h_2 hg | h_3 hg | h_11 hg | h_12 hg => cases h; exact ofNnn_eq hg
  case h_4 hg | h_5 hg | h_7 hg | h_8 hg | h_13 hg =>
    cases h; simpa [encode] using ofXnn_eq hg rfl
  case h_6 hg | h_10 hg | h_14 hg => cases h; simpa [encode] using ofNibbles_eq hg rfl

/-- Settles O1: each half by the cases of the decoder's groups. -/
theorem decodeIffEncode : Obligations.DecodeIffEncode := fun _ i =>
  ⟨encode_of_decodeWord, fun h => h ▸ decodeWord_encode i⟩

/-- Settles O3: the decoder evaluated at each of the twelve words. -/
theorem sampleWordsDecode : Obligations.SampleWordsDecode := by
  unfold Obligations.SampleWordsDecode; decide

/-! ### The words that name no instruction (R66) -/

theorem decodeGroup0_rejects :
    (∃ r, decodeGroup0 op = .error r) ↔ (fieldNn op).toNat ∉ [0xE0, 0xEE] := by
  unfold decodeGroup0
  split <;> simp_all

theorem decodeGroup8_rejects : (∃ r, decodeGroup8 op = .error r) ↔
    (fieldN op).toNat ∈ [0x8, 0x9, 0xA, 0xB, 0xC, 0xD, 0xF] := by
  have hlt := (fieldN op).isLt
  unfold decodeGroup8
  split
  case h_10 => simp; grind
  all_goals simp_all

theorem decodeGroupE_rejects :
    (∃ r, decodeGroupE op = .error r) ↔ (fieldNn op).toNat ∉ [0x9E, 0xA1] := by
  unfold decodeGroupE
  split <;> simp_all

theorem decodeGroupF_rejects : (∃ r, decodeGroupF op = .error r) ↔
    (fieldNn op).toNat ∉ [0x07, 0x0A, 0x15, 0x18, 0x1E, 0x29, 0x33, 0x55, 0x65] := by
  unfold decodeGroupF
  split <;> simp_all

/-- Settles O4: the twelve groups without a second-level key reject nothing, and each of the other
four rejects by its key. -/
theorem unknownWordsByGroup : Obligations.UnknownWordsByGroup := by
  intro w
  have hlt := (fieldGroup w).isLt
  rw [← toNat_fieldGroup, ← toNat_fieldNn, ← toNat_fieldN]
  unfold decodeWord
  split
  case h_1 hg => simp [decodeGroup0_rejects, hg]
  case h_9 hg => simp [decodeGroup8_rejects, hg]
  case h_15 hg => simp [decodeGroupE_rejects, hg]
  case h_16 =>
    have hg : (fieldGroup w).toNat = 0xF := by grind
    simp [decodeGroupF_rejects, hg]
  all_goals next hg => simp [hg]

/-! ### The rows of the opcode map (R64) -/

/-- Every instruction's row stands in the table. -/
theorem Instr.row_mem (i : Instr) : i.row ∈ opcodeRows := by
  cases i <;> simp [Instr.row, opcodeRows]

open Laws.FixedBits in
/-- Every instruction's opcode has the fixed bits of the instruction's row. -/
theorem encode_selects_row : ∀ i : Instr, i.row.selects (encode i) = true
  | .cls ign => cls ign | .ret ign => ret ign | .jp nnn => jp nnn | .call nnn => call nnn
  | .seImm x nn => seImm x nn | .sneImm x nn => sneImm x nn | .seReg x y ign => seReg x y ign
  | .ldImm x nn => ldImm x nn | .addImm x nn => addImm x nn | .ldReg x y => ldReg x y
  | .orReg x y => orReg x y | .andReg x y => andReg x y | .xorReg x y => xorReg x y
  | .addReg x y => addReg x y | .subReg x y => subReg x y | .shr x y => shr x y
  | .subnReg x y => subnReg x y | .shl x y => shl x y | .sneReg x y ign => sneReg x y ign
  | .ldI nnn => ldI nnn | .jpV0 nnn => jpV0 nnn | .rnd x nn => rnd x nn | .drw x y n => drw x y n
  | .skp x => skp x | .sknp x => sknp x | .ldFromDt x => ldFromDt x | .ldKey x => ldKey x
  | .ldDt x => ldDt x | .ldSt x => ldSt x | .addI x => addI x | .ldFont x => ldFont x
  | .ldBcd x => ldBcd x | .dumpRegs x => dumpRegs x | .loadRegs x => loadRegs x

/-- A word that selects a row with the mask F000 has the top nibble of the row's match word. -/
theorem group_of_F000 {v : Word} (h : OpcodeRow.selects ⟨0xF000, v⟩ op = true) :
    (fieldGroup op).toNat = v.toNat / 4096 := by
  have hv : op &&& 0xF000 = v := eq_of_beq h
  rw [← hv, and_F000, ← toNat_fieldGroup, fieldGroup_ofNibbles]

/-- A word that selects a row with the mask F00F has the outer nibbles of the row's match word. -/
theorem group_and_n_of_F00F {v : Word} (h : OpcodeRow.selects ⟨0xF00F, v⟩ op = true) :
    (fieldGroup op).toNat = v.toNat / 4096 ∧ (fieldN op).toNat = v.toNat % 16 := by
  have hv : op &&& 0xF00F = v := eq_of_beq h
  rw [← hv, and_F00F, ← toNat_fieldGroup, ← toNat_fieldN, fieldGroup_ofNibbles, fieldN_ofNibbles]
  exact ⟨rfl, rfl⟩

/-- A word that selects a row with the mask F0FF has the top nibble and the low byte of the row's
match word. -/
theorem group_and_nn_of_F0FF {v : Word} (h : OpcodeRow.selects ⟨0xF0FF, v⟩ op = true) :
    (fieldGroup op).toNat = v.toNat / 4096 ∧ (fieldNn op).toNat = v.toNat % 256 := by
  have hv : op &&& 0xF0FF = v := eq_of_beq h
  rw [← hv, and_F0FF, ← toNat_fieldGroup, fieldGroup_ofNibbles, toNat_ofNibbles, toNat_fieldNn,
    toNat_fieldY, toNat_fieldN]
  refine ⟨rfl, ?_⟩
  omega

/-- Each row is the row of the instruction that its match word decodes to. -/
theorem row_of_value : ∀ row ∈ opcodeRows, (decodeWord row.value).map Instr.row = .ok row := by
  decide

theorem exists_instr_of_row {row : OpcodeRow} (h : row ∈ opcodeRows) : ∃ i, Instr.row i = row := by
  have := row_of_value row h
  cases hd : decodeWord row.value <;> simp [hd, Except.map] at this
  exact ⟨_, this⟩

/-- A word that selects an instruction's row decodes to an instruction of that row. -/
theorem decodeWord_of_selects (i : Instr) (h : i.row.selects op = true) :
    ∃ j, decodeWord op = .ok j ∧ j.row = i.row := by
  cases i
  case jp | call | seImm | sneImm | seReg | ldImm | addImm | sneReg | ldI | jpV0 | rnd | drw =>
    have hg := group_of_F000 h
    simp [decodeWord, hg]; rfl
  case ldReg | orReg | andReg | xorReg | addReg | subReg | shr | subnReg | shl =>
    obtain ⟨hg, hn⟩ := group_and_n_of_F00F h
    simp [decodeWord, decodeGroup8, hg, hn]; rfl
  case cls | ret =>
    obtain ⟨hg, hn⟩ := group_and_nn_of_F0FF h
    simp [decodeWord, decodeGroup0, hg, hn]; rfl
  case skp | sknp =>
    obtain ⟨hg, hn⟩ := group_and_nn_of_F0FF h
    simp [decodeWord, decodeGroupE, hg, hn]; rfl
  case ldFromDt | ldKey | ldDt | ldSt | addI | ldFont | ldBcd | dumpRegs | loadRegs =>
    obtain ⟨hg, hn⟩ := group_and_nn_of_F0FF h
    simp [decodeWord, decodeGroupF, hg, hn]; rfl

/-- Settles O2: a word that selects a row decodes to an instruction of it, and it decodes to one
instruction only, so it can select no second row. -/
theorem decodeFollowsOpcodeMap : Obligations.DecodeFollowsOpcodeMap := by
  have hdecodes : ∀ (w : Word) (row : OpcodeRow), row ∈ opcodeRows → row.selects w = true →
      ∃ i, decodeWord w = .ok i ∧ i.row = row := by
    intro w row hrow hsel
    obtain ⟨i, rfl⟩ := exists_instr_of_row hrow
    exact decodeWord_of_selects i hsel
  refine ⟨fun _ i h => ⟨i.row_mem, encode_of_decodeWord h ▸ encode_selects_row i⟩, hdecodes, ?_⟩
  intro w r₁ r₂ hr₁ hr₂ hs₁ hs₂
  obtain ⟨i, hi, rfl⟩ := hdecodes w r₁ hr₁ hs₁
  obtain ⟨j, hj, rfl⟩ := hdecodes w r₂ hr₂ hs₂
  have hij : i = j := by simpa [hi] using hj
  rw [hij]

end Sys2Proof
end

section
/-! PROOFS. The instructions that can raise, on each side of their condition (spec/60_exceptions.md
R189): one equation of the execute phase for each. -/

namespace Sys2Proof.Machine

variable {s : State} {x y : RegIdx} {n : RowCount} {ign : Nibble} {nnn : Addr}

/-! ### The call stack (R100, R102) -/

theorem exec_ret_of_empty (h : s.sp.val = 0) :
    exec (.ret ign) s = .next (s.raise .stackUnderflow (encode (.ret ign)) 0) := by
  simp only [exec, execRet, State.pop_eq_none.mpr h]

theorem exec_ret_of_used (h : 0 < s.sp.val) : exec (.ret ign) s
    = .next { s with sp := ⟨s.sp.val - 1, by omega⟩, pc := s.stack[s.sp.val - 1]'(by omega) } := by
  simp only [exec, execRet, State.pop, dif_neg (Nat.ne_of_gt h)]; rfl

theorem exec_call_of_full (h : s.sp.val = 16) :
    exec (.call nnn) s = .next (s.raise .stackOverflow (encode (.call nnn)) 0) := by
  simp only [exec, execCall, State.push_eq_none.mpr h]

theorem exec_call_of_room (h : s.sp.val < 16) : exec (.call nnn) s
    = .next { s with stack := s.stack.set s.sp.val (s.pc + 2), sp := ⟨s.sp.val + 1, by omega⟩,
                     pc := addrWord nnn } := by
  simp only [exec, execCall, State.push, dif_pos h]; rfl

/-! ### The memory instructions (R42, R184) -/

/-- What `Dxyn` draws (R141). -/
def State.drawing (s : State) (x y : RegIdx) (n : RowCount) : Drawing :=
  drawSprite s.fb (s.reg x).toNat (s.reg y).toNat (s.mem.readBytes s.indexAddr n.val)

/-- What `Dxyn` leaves: the drawing, its collision in VF, and the advance (R141). -/
def State.drawn (s : State) (x y : RegIdx) (n : RowCount) : State :=
  ((s.setFb (s.drawing x y n).fb).setReg vF (flagByte (s.drawing x y n).collision)).advance

theorem exec_drw_of_fits (h : n.val = 0 ∨ s.i.toNat + n.val - 1 ≤ 0xFFF) :
    exec (.drw x y n) s = .next (s.drawn x y n) :=
  if_pos (inRange_eq_true.mpr (show n.val = 0 ∨ s.i.toNat + n.val ≤ 4096 by omega))

theorem exec_drw_past_end (hn : 0 < n.val) (h : 0xFFF < s.i.toNat + n.val - 1) :
    exec (.drw x y n) s = .next (s.raise .memOutOfRange (encode (.drw x y n)) 0x1000) :=
  if_neg (inRange_eq_true.not.mpr (show ¬ (n.val = 0 ∨ s.i.toNat + n.val ≤ 4096) by omega))

theorem exec_ldBcd_of_fits (h : s.i.toNat + 2 ≤ 0xFFF) : exec (.ldBcd x) s
    = .next (s.storeBytes s.indexAddr (bcdDigits (s.reg x))).advance :=
  if_pos (inRange_eq_true.mpr (show 3 = 0 ∨ s.i.toNat + 3 ≤ 4096 by omega))

theorem exec_ldBcd_past_end (h : 0xFFF < s.i.toNat + 2) :
    exec (.ldBcd x) s = .next (s.raise .memOutOfRange (encode (.ldBcd x)) 0x1000) :=
  if_neg (inRange_eq_true.not.mpr (show ¬ (3 = 0 ∨ s.i.toNat + 3 ≤ 4096) by omega))

/-- The run of a transfer of `V[0]` to `V[x]` lies inside the memory (R134, R135). -/
theorem inRange_transfer :
    Memory.inRange s.indexAddr (x.val + 1) = true ↔ s.i.toNat + x.val ≤ 0xFFF := by
  rw [inRange_eq_true, State.indexAddr]; omega

theorem exec_dumpRegs_of_fits (h : s.i.toNat + x.val ≤ 0xFFF) : exec (.dumpRegs x) s
    = .next (s.storeBytes s.indexAddr (s.regsUpTo x)).advance :=
  if_pos (inRange_transfer.mpr h)

theorem exec_dumpRegs_past_end (h : 0xFFF < s.i.toNat + x.val) :
    exec (.dumpRegs x) s = .next (s.raise .memOutOfRange (encode (.dumpRegs x)) 0x1000) :=
  if_neg (inRange_transfer.not.mpr (Nat.not_le.mpr h))

theorem exec_loadRegs_of_fits (h : s.i.toNat + x.val ≤ 0xFFF) : exec (.loadRegs x) s
    = .next (s.setRegs (fillRegs s.mem s.indexAddr s.v (x.val + 1))).advance :=
  if_pos (inRange_transfer.mpr h)

theorem exec_loadRegs_past_end (h : 0xFFF < s.i.toNat + x.val) :
    exec (.loadRegs x) s = .next (s.raise .memOutOfRange (encode (.loadRegs x)) 0x1000) :=
  if_neg (inRange_transfer.not.mpr (Nat.not_le.mpr h))

/-- Settles O38: the four instructions on the far side of their conditions. -/
theorem memoryPastEndRaises : Obligations.MemoryPastEndRaises := fun _ _ _ _ =>
  ⟨exec_ldBcd_past_end, fun h => ⟨exec_dumpRegs_past_end h, exec_loadRegs_past_end h⟩,
    exec_drw_past_end⟩

end Sys2Proof.Machine
end

section
/-! PROOFS. Everything an execute phase can do (spec/10_state.md R38, spec/60_exceptions.md R189):
the inversion lemma that the statements over all instructions rest on. -/

namespace Sys2Proof.Machine

/-- A terminal error's code with the address it records (R181, R184). -/
def TerminalError (code : ErrorCode) (faddr : Word) : Prop :=
  (code = .stackUnderflow ∧ faddr = 0) ∨ (code = .stackOverflow ∧ faddr = 0) ∨
    (code = .memOutOfRange ∧ 0x1000 ≤ faddr.toNat)

/-- One of the six skips (R103 to R106, R150, R151). -/
def IsSkip (i : Instr) : Prop :=
  (∃ x nn, i = .seImm x nn ∨ i = .sneImm x nn) ∨
    (∃ x y ign, i = .seReg x y ign ∨ i = .sneReg x y ign) ∨ ∃ x, i = .skp x ∨ i = .sknp x

/-- What an instruction that does not raise writes: one constructor per element of the state it is
the writer of (R38). -/
inductive Completes : Instr → State → State → Prop
  | waits {x s} (hk : s.key = none) : Completes (.ldKey x) s s
  | writesRegs {i s} (v : Vector Byte 16)
      (hv : ∀ r, ¬ writesReg i r → (s.setRegs v).reg r = s.reg r) :
      Completes i s (s.setRegs v).advance
  | takesDraw {x nn s} (b : Byte) : Completes (.rnd x nn) s (s.drawInto x nn b)
  | jumps {i s} (w : Word) (hi : (∃ nnn, i = .jp nnn) ∨ ∃ nnn, i = .jpV0 nnn) :
      Completes i s (s.setPc w)
  | skips {i s} (c : Bool) (hi : IsSkip i) : Completes i s (s.skipIf c)
  | calls {nnn} {s : State} (h : s.sp.val < 16) : Completes (.call nnn) s
      { s with stack := s.stack.set s.sp.val (s.pc + 2), sp := ⟨s.sp.val + 1, by omega⟩,
               pc := addrWord nnn }
  | returns {ign} {s : State} (h : 0 < s.sp.val) : Completes (.ret ign) s
      { s with sp := ⟨s.sp.val - 1, by omega⟩, pc := s.stack[s.sp.val - 1]'(by omega) }
  | writesI {i s} (w : Word) (hw : w.toNat < 0x1000)
      (hi : (∃ nnn, i = .ldI nnn) ∨ ∃ x, i = .addI x ∨ i = .ldFont x) :
      Completes i s (s.setI w).advance
  | writesDt {x s} (b : Byte) : Completes (.ldDt x) s (s.setDt b).advance
  | writesSt {x s} (b : Byte) : Completes (.ldSt x) s (s.setSt b).advance
  | stores {i s} (bs : List Byte) (hrun : storedRun i s = (s.indexAddr, bs.length)) :
      Completes i s (s.storeBytes s.indexAddr bs).advance
  | clears {ign s} : Completes (.cls ign) s (s.setFb blankFb).advance
  | draws {x y n s} (f : Framebuffer) (b : Byte) :
      Completes (.drw x y n) s ((s.setFb f).setReg vF b).advance

variable {i : Instr} {s t : State} {x : RegIdx} {b : Byte}

/-- A write to a register the instruction may write, and the advance. -/
theorem Completes.writesOneReg (hx : writesReg i x) : Completes i s (s.setReg x b).advance :=
  .writesRegs (s.v.set x.val b) fun r hr =>
    State.reg_setReg_of_ne (s := s) fun h : r = x => hr (h ▸ hx)

/-- A result and its flag written to registers the instruction may write, and the advance. -/
theorem Completes.writesResultFlag {f : Bool} (hx : writesReg i x)
    (hF : writesReg i vF) : Completes i s (s.setResultFlag x b f).advance :=
  .writesRegs (s.setResultFlag x b f).v fun r hr => by
    have hrF : r ≠ vF := fun h => hr (h ▸ hF)
    have hrx : r ≠ x := fun h => hr (h ▸ hx)
    exact (State.reg_setResultFlag s x r b f).trans (by rw [if_neg hrF, if_neg hrx])

/-- What an execute phase answers: a raise under the instruction's condition, or else its effect. -/
inductive Answers (i : Instr) (s : State) : State → Prop
  | raises (code : ErrorCode) (faddr : Word) (hcode : raisesWhen i s code)
      (herr : TerminalError code faddr) : Answers i s (s.raise code (encode i) faddr)
  | completes {t : State} (hno : ∀ code, ¬ raisesWhen i s code) (ht : Completes i s t) :
      Answers i s t

/-- A memory instruction raises with the first address past the end (R184). -/
theorem terminalError_pastEnd : TerminalError .memOutOfRange 0x1000 :=
  .inr (.inr ⟨rfl, Nat.le_refl _⟩)

/-- The registers a load leaves are those it may not write (R135). -/
theorem completes_loadRegs : Completes (.loadRegs x) s
    (s.setRegs (fillRegs s.mem s.indexAddr s.v (x.val + 1))).advance :=
  .writesRegs _ fun r hr => by
    have hxr : ¬ r.val < x.val + 1 := fun h => hr (Nat.le_of_lt_succ h)
    simp only [State.reg, State.setRegs_v, getElem_fillRegs, if_neg hxr]

/-- Every instruction answers a next state, which is one of its answers. -/
theorem exec_answers (i : Instr) (s : State) : ∃ t, exec i s = .next t ∧ Answers i s t := by
  cases i with
  | ret ign =>
    rcases Nat.eq_zero_or_pos s.sp.val with h | h
    · exact ⟨_, exec_ret_of_empty h, .raises _ _ ⟨h, rfl⟩ (.inl ⟨rfl, rfl⟩)⟩
    · exact ⟨_, exec_ret_of_used h, .completes (fun _ hr => Nat.ne_of_gt h hr.1) (.returns h)⟩
  | call nnn =>
    rcases Nat.lt_or_eq_of_le (Nat.le_of_lt_succ s.sp.isLt) with h | h
    · exact ⟨_, exec_call_of_room h, .completes (fun _ hr => Nat.ne_of_lt h hr.1) (.calls h)⟩
    · exact ⟨_, exec_call_of_full h, .raises _ _ ⟨h, rfl⟩ (.inr (.inl ⟨rfl, rfl⟩))⟩
  | drw x y n =>
    by_cases h : n.val = 0 ∨ s.i.toNat + n.val - 1 ≤ 0xFFF
    · refine ⟨_, exec_drw_of_fits h, .completes (fun _ ⟨hn, hi, _⟩ => ?_) (.draws _ _)⟩
      omega
    · exact ⟨_, exec_drw_past_end (by omega) (by omega),
        .raises _ _ ⟨by omega, by omega, rfl⟩ terminalError_pastEnd⟩
  | ldBcd x =>
    rcases Nat.lt_or_ge 0xFFF (s.i.toNat + 2) with h | h
    · exact ⟨_, exec_ldBcd_past_end h, .raises _ _ ⟨h, rfl⟩ terminalError_pastEnd⟩
    · exact ⟨_, exec_ldBcd_of_fits h,
        .completes (fun _ hr => Nat.not_lt.mpr h hr.1) (.stores _ rfl)⟩
  | dumpRegs x =>
    rcases Nat.lt_or_ge 0xFFF (s.i.toNat + x.val) with h | h
    · exact ⟨_, exec_dumpRegs_past_end h, .raises _ _ ⟨h, rfl⟩ terminalError_pastEnd⟩
    · exact ⟨_, exec_dumpRegs_of_fits h,
        .completes (fun _ hr => Nat.not_lt.mpr h hr.1) (.stores _ (by rw [length_regsUpTo]; rfl))⟩
  | loadRegs x =>
    rcases Nat.lt_or_ge 0xFFF (s.i.toNat + x.val) with h | h
    · exact ⟨_, exec_loadRegs_past_end h, .raises _ _ ⟨h, rfl⟩ terminalError_pastEnd⟩
    · exact ⟨_, exec_loadRegs_of_fits h,
        .completes (fun _ hr => Nat.not_lt.mpr h hr.1) completes_loadRegs⟩
  | ldKey x =>
    cases hk : s.key with
    | none => exact ⟨_, exec_ldKey_of_no_key hk, .completes (fun _ => id) (.waits hk)⟩
    | some k => exact ⟨_, exec_ldKey_of_key hk, .completes (fun _ => id) (.writesOneReg rfl)⟩
  | ldI nnn =>
    refine ⟨_, rfl, .completes (fun _ => id) (.writesI _ ?_ (.inl ⟨nnn, rfl⟩))⟩
    rw [toNat_addrWord]; exact nnn.isLt
  | addI x =>
    refine ⟨_, rfl, .completes (fun _ => id) (.writesI _ ?_ (.inr ⟨x, .inl rfl⟩))⟩
    rw [toNat_indexPlus]; exact Nat.mod_lt _ (by decide)
  | ldFont x =>
    refine ⟨_, rfl, .completes (fun _ => id) (.writesI _ ?_ (.inr ⟨x, .inr rfl⟩))⟩
    rw [toNat_glyphAddr]; omega
  | jp nnn => exact ⟨_, rfl, .completes (fun _ => id) (.jumps _ (.inl ⟨nnn, rfl⟩))⟩
  | jpV0 nnn => exact ⟨_, rfl, .completes (fun _ => id) (.jumps _ (.inr ⟨nnn, rfl⟩))⟩
  | seImm x nn =>
    exact ⟨_, rfl, .completes (fun _ => id) (.skips _ (.inl ⟨x, nn, .inl rfl⟩))⟩
  | sneImm x nn =>
    exact ⟨_, rfl, .completes (fun _ => id) (.skips _ (.inl ⟨x, nn, .inr rfl⟩))⟩
  | seReg x y ign =>
    exact ⟨_, rfl, .completes (fun _ => id) (.skips _ (.inr (.inl ⟨x, y, ign, .inl rfl⟩)))⟩
  | sneReg x y ign =>
    exact ⟨_, rfl, .completes (fun _ => id) (.skips _ (.inr (.inl ⟨x, y, ign, .inr rfl⟩)))⟩
  | skp x => exact ⟨_, rfl, .completes (fun _ => id) (.skips _ (.inr (.inr ⟨x, .inl rfl⟩)))⟩
  | sknp x => exact ⟨_, rfl, .completes (fun _ => id) (.skips _ (.inr (.inr ⟨x, .inr rfl⟩)))⟩
  | cls => exact ⟨_, rfl, .completes (fun _ => id) .clears⟩
  | rnd => exact ⟨_, rfl, .completes (fun _ => id) (.takesDraw _)⟩
  | ldDt => exact ⟨_, rfl, .completes (fun _ => id) (.writesDt _)⟩
  | ldSt => exact ⟨_, rfl, .completes (fun _ => id) (.writesSt _)⟩
  | ldImm | addImm | ldReg | orReg | andReg | xorReg | ldFromDt =>
    exact ⟨_, rfl, .completes (fun _ => id) (.writesOneReg rfl)⟩
  | addReg | subReg | shr | subnReg | shl =>
    exact ⟨_, rfl, .completes (fun _ => id) (.writesResultFlag (.inl rfl) (.inr rfl))⟩

/-- The answer of an execute phase is one of its instruction's answers. -/
theorem answers_of_exec (h : exec i s = .next t) : Answers i s t := by
  obtain ⟨u, hu, ha⟩ := exec_answers i s
  rw [h] at hu
  cases hu
  exact ha

end Sys2Proof.Machine
end

section
/-! PROOFS. What the instructions write and leave, over all of them (spec/10_state.md R22, R24,
R38). -/

namespace Sys2Proof.Machine

variable {i : Instr} {s t : State}

/-! ### The elements an instruction that completes leaves, and the writers of the others -/

theorem Completes.run_eq (h : Completes i s t) : t.run = s.run := by cases h <;> rfl

theorem Completes.fault_eq (h : Completes i s t) : t.fault = s.fault := by cases h <;> rfl

theorem Completes.out_eq (h : Completes i s t) : t.out = s.out := by cases h <;> rfl

theorem Completes.key_eq (h : Completes i s t) : t.key = s.key := by cases h <;> rfl

theorem Completes.illegalSeen_eq (h : Completes i s t) : t.illegalSeen = s.illegalSeen := by
  cases h <;> rfl

theorem Completes.i_frame (h : Completes i s t) (hne : t.i ≠ s.i) :
    (∃ nnn, i = .ldI nnn) ∨ ∃ x, i = .addI x ∨ i = .ldFont x := by
  cases h
  case writesI hi => exact hi
  all_goals exact absurd rfl hne

theorem Completes.stack_frame (h : Completes i s t) (hne : t.stack ≠ s.stack) :
    ∃ nnn, i = .call nnn := by
  cases h
  case calls nnn _ => exact ⟨nnn, rfl⟩
  all_goals exact absurd rfl hne

theorem Completes.sp_frame (h : Completes i s t) (hne : t.sp ≠ s.sp) :
    (∃ nnn, i = .call nnn) ∨ ∃ ign, i = .ret ign := by
  cases h
  case calls nnn _ => exact .inl ⟨nnn, rfl⟩
  case returns ign _ => exact .inr ⟨ign, rfl⟩
  all_goals exact absurd rfl hne

theorem Completes.dt_frame (h : Completes i s t) (hne : t.dt ≠ s.dt) : ∃ x, i = .ldDt x := by
  cases h
  case writesDt x _ => exact ⟨x, rfl⟩
  all_goals exact absurd rfl hne

theorem Completes.st_frame (h : Completes i s t) (hne : t.st ≠ s.st) : ∃ x, i = .ldSt x := by
  cases h
  case writesSt x _ => exact ⟨x, rfl⟩
  all_goals exact absurd rfl hne

theorem Completes.display_frame (h : Completes i s t) (hne : t.fb ≠ s.fb ∨ t.redraw ≠ s.redraw) :
    (∃ ign, i = .cls ign) ∨ ∃ x y n, i = .drw x y n := by
  cases h
  case clears ign => exact .inl ⟨ign, rfl⟩
  case draws x y n _ _ => exact .inr ⟨x, y, n, rfl⟩
  all_goals exact hne.elim (absurd rfl) (absurd rfl)

theorem Completes.draws_frame (h : Completes i s t) (hne : t.draws ≠ s.draws) :
    ∃ x nn, i = .rnd x nn := by
  cases h
  case takesDraw x nn _ => exact ⟨x, nn, rfl⟩
  all_goals exact absurd rfl hne

theorem Completes.reg_frame {r : RegIdx} (h : Completes i s t) (hr : ¬ writesReg i r) :
    t.reg r = s.reg r := by
  cases h
  case writesRegs v hv => exact hv r hr
  case takesDraw x nn b => exact (State.reg_drawInto ..).trans (if_neg hr)
  case draws f b => exact State.reg_setReg_of_ne (s := s.setFb f) hr
  all_goals rfl

theorem Completes.mem_frame (h : Completes i s t) {a : Nat}
    (ha : a < (storedRun i s).1 ∨ (storedRun i s).1 + (storedRun i s).2 ≤ a) :
    t.mem.read a = s.mem.read a := by
  cases h
  case stores bs hrun => rw [hrun] at ha; exact Memory.read_writeBytes_outside _ _ _ _ ha
  all_goals rfl

/-- Nothing an instruction does clears the redraw flag (R31). -/
theorem Completes.keeps_redraw (h : Completes i s t) (hs : s.redraw = true) : t.redraw = true := by
  cases h
  case clears | draws => rfl
  all_goals exact hs

/-- Where pc goes: to an absolute target, to the next instruction, nowhere in a key wait, or past
the next instruction in a skip (R24, R88). -/
theorem Completes.pc_cases (h : Completes i s t) :
    (∃ ign, i = .ret ign) ∨ (∃ nnn, i = .jp nnn ∨ i = .call nnn ∨ i = .jpV0 nnn) ∨
      t.pc = s.pc + 2 ∨ (t.pc = s.pc ∧ s.key = none ∧ ∃ x, i = .ldKey x) ∨
      (t.pc = s.pc + 4 ∧ IsSkip i) := by
  cases h
  case returns ign _ => exact .inl ⟨ign, rfl⟩
  case calls nnn _ => exact .inr (.inl ⟨nnn, .inr (.inl rfl)⟩)
  case jumps hi =>
    exact .inr (.inl (hi.elim (fun ⟨nnn, h⟩ => ⟨nnn, .inl h⟩) fun ⟨nnn, h⟩ => ⟨nnn, .inr (.inr h)⟩))
  case waits x hk => exact .inr (.inr (.inr (.inl ⟨rfl, hk, x, rfl⟩)))
  case skips c hi =>
    cases c with
    | true => exact .inr (.inr (.inr (.inr ⟨rfl, hi⟩)))
    | false => exact .inr (.inr (.inl rfl))
  all_goals exact .inr (.inr (.inl rfl))

theorem Completes.ready (h : Completes i s t) (hr : s.run = .ready) : t.run = .ready :=
  h.run_eq.trans hr

theorem State.not_faulted_of_ready (hr : s.run = .ready) : s.run ≠ .faulted := by
  rw [hr]; decide

/-- An instruction has at most one error to raise (R189). -/
theorem raisesWhen_code_unique {c c' : ErrorCode} (h : raisesWhen i s c) (h' : raisesWhen i s c') :
    c = c' := by
  cases i with
  | ret | call | ldBcd | dumpRegs | loadRegs => exact h.2.trans h'.2.symm
  | drw => exact h.2.2.trans h'.2.2.symm
  | _ => exact h.elim

/-- Settles O17: each of the two answers of an execute phase, read on both sides. -/
theorem instructionRaisesExactlyWhen : Obligations.InstructionRaisesExactlyWhen := by
  intro i s code hr
  constructor
  · rintro ⟨t, he, hrun, hcode⟩
    cases answers_of_exec he with
    | raises _ _ h => exact hcode ▸ h
    | completes _ ht => exact absurd hrun (State.not_faulted_of_ready (ht.ready hr))
  · intro h
    obtain ⟨t, he, ha⟩ := exec_answers i s
    cases ha with
    | raises _ _ h' => exact ⟨_, he, rfl, raisesWhen_code_unique h' h⟩
    | completes hno _ => exact absurd h (hno code)

/-- Settles O47: a raise writes no register, and what completes writes those its instruction may. -/
theorem registerFrame : Obligations.RegisterFrame := fun i s t r he hr => by
  cases answers_of_exec he with
  | raises => rfl
  | completes _ ht => exact ht.reg_frame hr

/-- Settles O48: a raise stores nothing, and what completes stores inside its run. -/
theorem memoryFrame : Obligations.MemoryFrame := fun i s t he => by
  cases answers_of_exec he with
  | raises => exact ⟨fun _ _ => rfl, fun _ _ _ => rfl⟩
  | completes _ ht =>
    exact ⟨fun _ => ht.mem_frame,
      fun hs hf => absurd hf (State.not_faulted_of_ready (ht.ready hs))⟩

/-- Settles O49: a raise writes the run state, the record and the outputs alone, and what completes
leaves these three. -/
theorem specialStateFrame : Obligations.SpecialStateFrame := fun i s t he => by
  cases answers_of_exec he with
  | raises code a hcode =>
    exact ⟨absurd rfl, absurd rfl, absurd rfl, absurd rfl, absurd rfl,
      fun h => h.elim (absurd rfl) (absurd rfl), rfl, rfl, absurd rfl,
      fun _ => ⟨code, hcode, rfl, rfl⟩⟩
  | completes _ ht =>
    refine ⟨ht.i_frame, ht.stack_frame, ht.sp_frame, ht.dt_frame, ht.st_frame, ht.display_frame,
      ht.key_eq, ht.illegalSeen_eq, ht.draws_frame, ?_⟩
    rintro (h | h | h)
    · exact absurd ht.run_eq h
    · exact absurd ht.fault_eq h
    · exact absurd ht.out_eq h

/-- Settles O50: pc by the kinds of effect of an instruction that completes. -/
theorem programCounterAfter : Obligations.ProgramCounterAfter := fun i s t he hr hret hjump => by
  cases answers_of_exec he with
  | raises => exact ⟨fun _ => rfl, fun h => absurd h (by simp)⟩
  | completes _ ht =>
    refine ⟨fun hf => absurd hf (State.not_faulted_of_ready (ht.ready hr)), fun _ => ?_⟩
    rcases ht.pc_cases with ⟨ign, h⟩ | ⟨nnn, h⟩ | h
    · exact absurd h (hret ign)
    · obtain ⟨hjp, hcall, hjpV0⟩ := hjump nnn
      exact (not_or.mpr ⟨hjp, not_or.mpr ⟨hcall, hjpV0⟩⟩ h).elim
    · exact h

end Sys2Proof.Machine
end

section
/-! PROOFS. The cycle (spec/40_cycle.md R80 to R87): its ways to end, and what each leaves. -/

namespace Sys2Proof.Machine

variable {s t : State} {op : Word} {r : Reject}

/-! ### The ways of a cycle -/

/-- What a cycle of a READY core answers (R80): the fetch raises, the word is unknown, its
instruction completes, or its instruction raises. -/
inductive ReadyStep (s : State) : State → Prop
  | fetchFails (a : Word) (hf : s.fetch = .error a) : ReadyStep s (s.fetchFault a)
  | unknown (op : Word) (r : Reject) (hf : s.fetch = .ok op) (hd : decodeWord op = .error r) :
      ReadyStep s (s.unknownOpcode op)
  | completes (i : Instr) (u : State) (hf : s.fetch = .ok (encode i)) (he : exec i s = .next u)
      (hu : Completes i s u) : ReadyStep s (u.timers none)
  | raises (i : Instr) (code : ErrorCode) (faddr : Word) (hf : s.fetch = .ok (encode i))
      (herr : TerminalError code faddr) : ReadyStep s (s.raise code (encode i) faddr)

/-- A cycle of a READY core ends in one of the four ways. -/
theorem readyStep_of_step (hr : s.run = .ready) (h : step s = .next t) : ReadyStep s t := by
  rcases step_cases h with ⟨hf, -⟩ | ⟨a, -, hf, rfl⟩ | ⟨op, r, -, hf, hd, rfl⟩ |
    ⟨op, i, u, -, hf, hd, he, hu⟩
  · exact absurd hf (State.not_faulted_of_ready hr)
  · exact .fetchFails a hf
  · exact .unknown op r hf hd
  · obtain rfl := encode_of_decodeWord hd
    cases answers_of_exec he with
    | raises code faddr hcode herr =>
      obtain ⟨hu, -⟩ | ⟨-, rfl⟩ := hu
      · exact absurd hu (by simp)
      · exact .raises i code faddr hf herr
    | completes _ hc =>
      obtain ⟨-, rfl⟩ | ⟨hu, -⟩ := hu
      · exact .completes i u hf he hc
      · exact absurd hu (State.not_faulted_of_ready (hc.ready hr))

/-- A cycle whose instruction leaves the core READY ends with the timer phase. -/
theorem step_of_exec_ready {i : Instr} (hr : s.run = .ready) (hf : s.fetch = .ok (encode i))
    (he : exec i s = .next t) (ht : t.run = .ready) : step s = .next (t.timers none) := by
  rw [step_of_decode hr hf (decodeWord_encode i), he, finishCycle_of_ready ht]

/-- A cycle whose instruction raised ends as the raise left it (R86). -/
theorem finishCycle_of_faulted (hf : s.run = .faulted) : finishCycle (.next s) = .next s :=
  finishCycle_eq_next.mpr ⟨s, rfl, .inr ⟨hf, rfl⟩⟩

/-- The end of a cycle answers next wherever its execute phase did. -/
theorem finishCycle_answers_next (u : State) : ∃ t, finishCycle (.next u) = .next t := by
  cases hu : u.run with
  | ready => exact ⟨_, finishCycle_of_ready hu⟩
  | faulted => exact ⟨u, finishCycle_of_faulted hu⟩

/-- Settles O11: by the phases of the cycle, and no instruction stops the machine. -/
theorem stepAlwaysAnswersNext : Obligations.StepAlwaysAnswersNext := by
  intro s
  cases hr : s.run with
  | faulted => exact ⟨_, step_of_faulted hr⟩
  | ready =>
    cases hf : s.fetch with
    | error a => exact ⟨_, step_of_fetch_error hr hf⟩
    | ok op =>
      cases hd : decodeWord op with
      | error r => exact ⟨_, step_of_unknown hr hf hd⟩
      | ok i =>
        obtain ⟨u, hu, -⟩ := exec_answers i s
        rw [step_of_decode hr hf hd, hu]
        exact finishCycle_answers_next u

/-- Settles O9: the fetch of the two bytes, then the two ends of a cycle. -/
theorem stepRunsDecodedInstruction : Obligations.StepRunsDecodedInstruction := by
  intro s i hr hpc hd
  have hstep := step_of_decode hr (State.fetch_eq_ok.mpr ⟨hpc, rfl⟩) hd
  refine ⟨fun t he ht => ?_, fun t he ht => ?_⟩
  · rw [hstep, he, finishCycle_of_ready ht]; rfl
  · rw [hstep, he, finishCycle_of_faulted ht]

/-- Settles O14: the failed fetch and the address it reports. -/
theorem fetchPastEndRaises : Obligations.FetchPastEndRaises := fun _ hr hpc =>
  step_of_fetch_error hr (State.fetch_eq_error.mpr ⟨hpc, rfl⟩)

/-- Settles O15: the idle cycle writes the outputs alone. -/
theorem faultedCycleChangesNothing : Obligations.FaultedCycleChangesNothing := fun _ hr =>
  step_of_faulted hr

/-- Settles O16: of the four ways of a cycle, the two that end FAULTED are raises. -/
theorem raisingCycleIsPrecise : Obligations.RaisingCycleIsPrecise := by
  intro s t hr h hfaulted
  cases readyStep_of_step hr h with
  | fetchFails a hf =>
    exact ⟨rfl, rfl, fun op hok => by simp [hf] at hok, fun _ _ => rfl, .inr (.inr rfl), rfl⟩
  | unknown => exact absurd hfaulted (State.not_faulted_of_ready hr)
  | completes _ _ _ _ hu => exact absurd hfaulted (State.not_faulted_of_ready (hu.ready hr))
  | raises i code faddr hf herr =>
    refine ⟨rfl, rfl, fun op hok => ?_, fun a herror => by simp [hf] at herror, ?_, rfl⟩
    · exact Except.ok.inj (hf.symm.trans hok)
    · exact herr.imp And.left (Or.imp And.left And.left)

/-! ### The timer phase (R84, R85) -/

/-- The outputs of the timer phase, the pulse by the number in ST. -/
theorem State.timers_out_eq {d : Option IllegalOpcode} :
    (s.timers d).out = ⟨decide (s.st.toNat = 1), d, none⟩ := by
  have hone : (s.st == 1) = decide (s.st.toNat = 1) := decide_eq_decide.mpr BitVec.toNat_inj.symm
  rw [State.timers_out, hone]

theorem State.timers_soundOn {d : Option IllegalOpcode} :
    (s.timers d).out.soundOn = true ↔ s.st.toNat = 1 := by
  rw [State.timers_out_eq, decide_eq_true_iff]

/-- The timer phase reports the pulse of ST at 1, takes 1 from each timer above 0 and writes nothing
else (R84, R85). -/
theorem State.timers_spec (d : Option IllegalOpcode) :
    ((s.timers d).out.soundOn = true ↔ s.st.toNat = 1) ∧
    (s.timers d).dt.toNat = (if s.dt.toNat > 0 then s.dt.toNat - 1 else 0) ∧
    (s.timers d).st.toNat = (if s.st.toNat > 0 then s.st.toNat - 1 else 0) ∧
    s.timers d
      = { s with dt := (s.timers d).dt, st := (s.timers d).st, out := (s.timers d).out } := by
  refine ⟨State.timers_soundOn, ?_, ?_, rfl⟩
  · rw [State.timers_dt, toNat_tick]; split <;> omega
  · rw [State.timers_st, toNat_tick]; split <;> omega

/-- The timer phase reports the pulse exactly when it takes ST from 1 to 0 (R28). -/
theorem State.timers_pulse (d : Option IllegalOpcode) :
    ((s.timers d).out.soundOn = true ↔ s.st.toNat = 1 ∧ (s.timers d).st.toNat = 0) ∧
    (s.timers d).st.toNat = s.st.toNat - 1 := by
  rw [State.timers_soundOn, State.timers_st, toNat_tick]; omega

/-- Settles O10: the two ways of a cycle that end READY end with the timer phase. -/
theorem timerPhaseTicks : Obligations.TimerPhaseTicks := by
  intro s t hr h ht
  cases readyStep_of_step hr h with
  | fetchFails | raises => exact absurd ht (by simp)
  | unknown op r hf hd => exact ⟨op, _, hf, .inr ⟨⟨r, hd⟩, rfl⟩, State.timers_spec _⟩
  | completes i u hf he =>
    exact ⟨encode i, u, hf, .inl ⟨i, decodeWord_encode i, he⟩, State.timers_spec none⟩

/-- Settles O18: each of the three in its execute phase, then one timer phase. -/
theorem timerWritesInTheirCycle : Obligations.TimerWritesInTheirCycle := by
  intro s x hr
  refine ⟨fun hf => ?_, fun hf => ?_, fun hf => ?_⟩
  · exact ⟨_, step_of_exec_ready hr hf rfl hr, toNat_tick _, rfl⟩
  · exact ⟨_, step_of_exec_ready hr hf rfl hr, toNat_tick _, State.timers_soundOn, rfl⟩
  · exact ⟨_, step_of_exec_ready hr hf rfl hr, State.reg_setReg_same, toNat_tick _, rfl⟩

/-- Settles O19: the pulse is the timer phase's, on the ST the cycle began with, since `Fx18` alone
writes ST. -/
theorem soundPulseOnOneToZero : Obligations.SoundPulseOnOneToZero := by
  intro s t hr h
  cases readyStep_of_step hr h with
  | fetchFails | raises => exact ⟨fun ht => absurd ht (by simp), fun _ => rfl⟩
  | unknown op r hf hd =>
    exact ⟨fun _ _ => State.timers_pulse (s := s) (some ⟨s.pc, op⟩),
      fun ht => absurd ht (State.not_faulted_of_ready hr)⟩
  | completes i u hf he hu =>
    refine ⟨fun _ hst => ?_, fun ht => absurd ht (State.not_faulted_of_ready (hu.ready hr))⟩
    have hkeeps : u.st = s.st := by
      by_contra hne
      obtain ⟨x, rfl⟩ := hu.st_frame hne
      exact hst x hf
    rw [← hkeeps]
    exact State.timers_pulse none

/-! ### An unknown word (R87) -/

/-- Settles O12: the cycle of an unknown word is the timer phase with its report. -/
theorem unknownOpcodeStalls : Obligations.UnknownOpcodeStalls := fun s op _ hr hf hd =>
  ⟨s.unknownOpcode op, step_of_unknown hr hf hd, toNat_tick _, toNat_tick _,
    State.timers_out_eq (s := s), rfl, rfl⟩

/-- After `n + 1` timer phases the outputs are those of the last one, whose pulse comes when ST
began at `n + 1` (R84, R85). -/
theorem State.out_timersFor (d : Option IllegalOpcode) (n : Nat) :
    (s.timersFor d (n + 1)).out = ⟨decide (s.st.toNat = n + 1), d, none⟩ := by
  induction n generalizing s with
  | zero => exact State.timers_out_eq
  | succ n ih =>
    rw [State.timersFor, ih, State.timers_st, toNat_tick]
    congr 2
    rw [eq_iff_iff]; omega

/-- A READY core that fetches an unknown word and has reported one before. -/
structure State.StuckAt (pc op : Word) (s : State) : Prop where
  ready : s.run = .ready
  fetches : s.fetch = .ok op
  at_pc : s.pc = pc
  reported : s.illegalSeen = true

/-- A cycle of a stuck core is its timer phase with the report of the word (R87). -/
theorem State.StuckAt.step_eq {pc : Word} (hd : decodeWord op = .error r) (h : s.StuckAt pc op) :
    step s = .next (s.timers (some ⟨pc, op⟩)) := by
  have hsame : { s with illegalSeen := true } = s := by rw [← h.reported]
  rw [step_of_unknown h.ready h.fetches hd, State.unknownOpcode, hsame, h.at_pc]

/-- A run at an unknown word is timer phases alone, each with the report of the word: after its
first cycle the core is stuck (R87). -/
theorem run_of_unknown (hr : s.run = .ready) (hf : s.fetch = .ok op) (hd : decodeWord op = .error r)
    (n : Nat) : Host.Core.run Sys2Proof.core (n + 1) s
      = .next (State.timersFor (some ⟨s.pc, op⟩) (n + 1) { s with illegalSeen := true }) := by
  rw [run_succ n (step_of_unknown hr hf hd)]
  exact run_eq_timersFor (P := State.StuckAt s.pc op) (fun _ h => h.step_eq hd)
    (fun _ h => ⟨h.ready, h.fetches, h.at_pc, h.reported⟩) n ⟨hr, hf, rfl, rfl⟩

/-- Settles O13: what timer phases alone leave. -/
theorem unknownOpcodeLivelock : Obligations.UnknownOpcodeLivelock := fun s op _ n hr hf hd =>
  ⟨_, run_of_unknown hr hf hd n, State.toNat_dt_timersFor _ (n + 1),
    State.toNat_st_timersFor _ (n + 1), State.out_timersFor (some ⟨s.pc, op⟩) n,
    State.timersFor_frame _ (n + 1)⟩

/-! ### A self-jump (R215) -/

/-- A cycle at a self-jump is its timer phase. -/
theorem State.atSelfJump.step_eq (h : s.atSelfJump) : step s = .next (s.timers none) := by
  obtain ⟨hr, nnn, hpc, hf⟩ := h
  have he : exec (.jp nnn) s = .next s := by rw [exec, execJp, ← hpc]; rfl
  exact step_of_exec_ready hr hf he hr

/-- Settles O54: a cycle at a self-jump is a timer phase after which the core is still there. -/
theorem selfJumpOnlyCountsDown : Obligations.SelfJumpOnlyCountsDown := fun s n h =>
  ⟨s.timersFor none (n + 1),
    run_eq_timersFor (fun _ => State.atSelfJump.step_eq) (fun _ h => h) (n + 1) h,
    State.toNat_dt_timersFor none (n + 1), State.toNat_st_timersFor none (n + 1),
    State.out_timersFor none n, State.timersFor_frame none (n + 1)⟩

end Sys2Proof.Machine
end

section
/-! PROOFS. The invariant of Safety.lean (spec/10_state.md R37), kept by every cycle and by every
operation of the host. -/

namespace Sys2Proof.Machine

variable {i : Instr} {s t : State}

/-! ### The clauses an execute phase can touch -/

/-- Stores keep memory canonical, and no other effect writes it (log 17). -/
theorem Completes.mem_wf (h : Completes i s t) (hs : s.mem.wf = true) : t.mem.wf = true := by
  cases h
  case stores bs _ => exact Memory.wf_writeBytes bs _ _ hs
  all_goals exact hs

/-- I stays a 12-bit address (R37(b)). -/
theorem Completes.index_lt (h : Completes i s t) (hs : s.i.toNat < 0x1000) :
    t.i.toNat < 0x1000 := by
  cases h
  case writesI w hw _ => exact hw
  all_goals exact hs

/-- The entries in use stay at most 0x1000: a call pushes the address after a fetched word
(R37(d)). -/
theorem Completes.stack_le (h : Completes i s t) (hpc : s.pc.toNat ≤ 0xFFE)
    (hs : ∀ k, (hk : k < s.sp.val) → (s.stack[k]'(by omega)).toNat ≤ 0x1000) :
    ∀ k, (hk : k < t.sp.val) → (t.stack[k]'(by omega)).toNat ≤ 0x1000 := by
  cases h
  case calls nnn hroom =>
    intro k hk
    have hpush : (s.pc + 2).toNat ≤ 0x1000 := by bv_omega
    rw [Vector.getElem_set]
    split
    · exact hpush
    · next hne => exact hs k (by have : k < s.sp.val + 1 := hk; omega)
  case returns ign hused => exact fun k hk => hs k (Nat.lt_of_lt_pred hk)
  all_goals exact hs

/-! ### The invariant through the parts of a cycle -/

/-- The invariant of a state with the run state, the record and the outputs of one that meets it needs
but its clauses on memory, I and the stack. -/
theorem State.Inv.of_frame (hs : s.Inv) (hmem : t.mem.wf = true) (hi : t.i.toNat < 0x1000)
    (hstack : ∀ k, (hk : k < t.sp.val) → (t.stack[k]'(by omega)).toNat ≤ 0x1000)
    (hrun : t.run = s.run) (hfault : t.fault = s.fault) (hout : t.out = s.out) : t.Inv where
  mem_wf := hmem
  index_lt := hi
  stack_le := hstack
  ready_clear := by rw [hrun, hfault, hout]; exact hs.ready_clear
  faulted_record := by rw [hrun, hfault]; exact hs.faulted_record
  faulted_quiet := by rw [hrun, hout]; exact hs.faulted_quiet

/-- An instruction that completes keeps the invariant, executed from inside the memory. -/
theorem State.Inv.completes (hs : s.Inv) (hpc : s.pc.toNat ≤ 0xFFE) (h : Completes i s t) : t.Inv :=
  hs.of_frame (h.mem_wf hs.mem_wf) (h.index_lt hs.index_lt) (h.stack_le hpc hs.stack_le) h.run_eq
    h.fault_eq h.out_eq

/-- The timer phase keeps the invariant (R85). -/
theorem State.Inv.timers (hs : s.Inv) (hr : s.run = .ready) (d : Option IllegalOpcode) :
    (s.timers d).Inv where
  mem_wf := hs.mem_wf
  index_lt := hs.index_lt
  stack_le := hs.stack_le
  ready_clear := fun _ => ⟨(hs.ready_clear hr).1, rfl⟩
  faulted_record := fun h => absurd h (State.not_faulted_of_ready hr)
  faulted_quiet := fun h => absurd h (State.not_faulted_of_ready hr)

/-- A raise of a terminal error keeps the invariant (R187). -/
theorem State.Inv.raise (hs : s.Inv) {code : ErrorCode} {op faddr : Word}
    (herr : TerminalError code faddr) : (s.raise code op faddr).Inv where
  mem_wf := hs.mem_wf
  index_lt := hs.index_lt
  stack_le := hs.stack_le
  ready_clear := fun h => absurd h (by simp)
  faulted_record := fun _ => herr
  faulted_quiet := fun _ => ⟨rfl, rfl⟩

/-- A cycle of a FAULTED core keeps the invariant (R86). -/
theorem State.Inv.idleCycle (hs : s.Inv) : s.idleCycle.Inv where
  mem_wf := hs.mem_wf
  index_lt := hs.index_lt
  stack_le := hs.stack_le
  ready_clear := fun h => ⟨(hs.ready_clear h).1, rfl⟩
  faulted_record := hs.faulted_record
  faulted_quiet := fun _ => ⟨rfl, rfl⟩

/-- A failed fetch is a terminal error: the address it reports is past the end (R184). -/
theorem terminalError_of_fetch_error {a : Word} (hf : s.fetch = .error a) :
    TerminalError .memOutOfRange a := by
  obtain ⟨hpc, rfl⟩ := State.fetch_eq_error.mp hf
  refine .inr (.inr ⟨rfl, ?_⟩)
  split
  · exact Nat.le_refl _
  · show 4096 ≤ s.pc.toNat
    omega

/-- Settles O51: the idle cycle, and the four ways of a cycle of a READY core. -/
theorem stepKeepsInvariant : Obligations.StepKeepsInvariant := by
  intro s t hs h
  cases hr : s.run with
  | faulted =>
    rw [step_of_faulted hr] at h
    cases h
    exact hs.idleCycle
  | ready =>
    cases readyStep_of_step hr h with
    | fetchFails a hf => exact hs.raise (terminalError_of_fetch_error hf)
    | unknown op _ _ _ =>
      have hseen : State.Inv { s with illegalSeen := true } :=
        hs.of_frame hs.mem_wf hs.index_lt hs.stack_le rfl rfl rfl
      exact hseen.timers hr _
    | completes i u hf _ hu =>
      exact (hs.completes (State.fetch_eq_ok.mp hf).1 hu).timers (hu.ready hr) none
    | raises i code faddr _ herr => exact hs.raise herr

/-! ### The operations of the host -/

/-- The reset values meet the invariant, whatever the two fields of the model's own hold (R36,
log 16). -/
theorem State.resetOp_inv : s.resetOp.Inv where
  mem_wf := rfl
  index_lt := by simp
  stack_le := fun k hk => absurd hk (Nat.not_lt_zero k)
  ready_clear := fun _ => ⟨rfl, rfl⟩
  faulted_record := fun h => absurd h (by simp)
  faulted_quiet := fun _ => ⟨rfl, rfl⟩

/-- Settles O7: the reset state is the reset operation's own result from it. -/
theorem resetMeetsInvariant : Obligations.ResetMeetsInvariant :=
  State.resetOp_inv (s := State.reset)

/-- A load writes memory alone (R162). -/
theorem State.load_frame {image : List Byte} :
    (s.load image).2 = { s with mem := (s.load image).2.mem } := by
  rcases Nat.lt_or_ge 3584 image.length with h | h
  · rw [State.load_of_too_large h]
  · rw [State.load_of_fits h]; rfl

/-- A load keeps memory canonical. -/
theorem State.load_mem_wf {image : List Byte} (hs : s.mem.wf = true) :
    (s.load image).2.mem.wf = true := by
  rcases Nat.lt_or_ge 3584 image.length with h | h
  · rw [State.load_of_too_large h]; exact hs
  · rw [State.load_of_fits h]; exact Memory.wf_writeBytes image _ _ hs

/-- Every operation of the host answers next and keeps the invariant (R51). -/
theorem applyHostOp_keeps_inv (op : HostOp) (hs : s.Inv) :
    ∃ t, applyHostOp op s = .next t ∧ t.Inv := by
  cases op with
  | reset => exact ⟨_, rfl, State.resetOp_inv⟩
  | load image =>
    refine ⟨_, rfl, ?_⟩
    have hmem := State.load_mem_wf (image := image) hs.mem_wf
    rw [State.load_frame]
    exact hs.of_frame hmem hs.index_lt hs.stack_le rfl rfl rfl
  | setKeyInput k =>
    exact ⟨_, rfl, hs.of_frame hs.mem_wf hs.index_lt hs.stack_le rfl rfl rfl⟩
  | ackRedraw => exact ⟨_, rfl, hs.of_frame hs.mem_wf hs.index_lt hs.stack_le rfl rfl rfl⟩
  | cycle =>
    obtain ⟨t, ht⟩ := stepAlwaysAnswersNext s
    exact ⟨t, ht, stepKeepsInvariant s t hs ht⟩

/-- Settles O52: by induction on the sequence of operations. -/
theorem hostRunsKeepInvariant : Obligations.HostRunsKeepInvariant := by
  intro ops
  induction ops with
  | nil => exact fun s hs => ⟨s, rfl, hs⟩
  | cons op ops ih =>
    intro s hs
    obtain ⟨u, hu, huInv⟩ := applyHostOp_keeps_inv op hs
    obtain ⟨t, ht, htInv⟩ := ih u huInv
    exact ⟨t, by rw [runHost, hu]; exact ht, htInv⟩

end Sys2Proof.Machine
end

section
/-! PROOFS. The operations of the host (spec/50_host_interface.md R160 to R165). -/

namespace Sys2Proof.Machine

variable {s t : State}

/-- Settles O55: the two branches of the load. -/
theorem loadStoresImageOrNothing : Obligations.LoadStoresImageOrNothing := by
  intro image s
  refine ⟨State.load_of_too_large, fun hfit => ⟨_, State.load_of_fits hfit, fun k hk => ?_,
    fun a ha => Memory.read_writeBytes_outside _ _ _ _ ha, rfl⟩⟩
  have hread := State.read_load (s := s) hk hfit
  rwa [State.load_of_fits hfit] at hread

/-- Settles O57: the two operations as they are defined. -/
theorem ackRedrawAndReset : Obligations.AckRedrawAndReset := fun _ => ⟨rfl, rfl⟩

/-- Settles O58: an idle cycle writes the outputs alone, and no other operation but reset writes the
run state or the record. -/
theorem onlyResetLeavesFaulted : Obligations.OnlyResetLeavesFaulted := by
  intro op s t hr hop h
  cases op with
  | reset => exact absurd rfl hop
  | load image => cases h; rw [State.load_frame]; exact ⟨hr, rfl⟩
  | setKeyInput | ackRedraw => cases h; exact ⟨hr, rfl⟩
  | cycle => rw [applyHostOp, step_of_faulted hr] at h; cases h; exact ⟨hr, rfl⟩

/-- A cycle leaves the key latch, and a redraw flag that is set (R30, R31). -/
theorem step_keeps_latch_and_redraw (h : step s = .next t) :
    t.key = s.key ∧ (s.redraw = true → t.redraw = true) := by
  cases hr : s.run with
  | faulted => rw [step_of_faulted hr] at h; cases h; exact ⟨rfl, id⟩
  | ready =>
    cases readyStep_of_step hr h with
    | fetchFails | unknown | raises => exact ⟨rfl, id⟩
    | completes _ _ _ _ hu => exact ⟨hu.key_eq, hu.keeps_redraw⟩

/-- Settles O59: by the operations, a cycle by what no instruction does. -/
theorem hostOwnsLatchAndRedraw : Obligations.HostOwnsLatchAndRedraw := by
  intro op s t hop h
  cases op with
  | reset => exact absurd rfl hop
  | load image => cases h; rw [State.load_frame]; exact ⟨fun _ => rfl, fun _ => id⟩
  | setKeyInput k => cases h; exact ⟨fun hk => absurd rfl (hk k), fun _ => id⟩
  | ackRedraw => cases h; exact ⟨fun _ => rfl, fun hack => absurd rfl hack⟩
  | cycle =>
    obtain ⟨hkey, hredraw⟩ := step_keeps_latch_and_redraw h
    exact ⟨fun _ => hkey, fun _ => hredraw⟩

/-- Settles O6: the reset state read field by field. -/
theorem resetValues : Obligations.ResetValues := by
  refine ⟨fun a h => ?_, fun a h => ?_, fun r => ?_, rfl, rfl, rfl, fun k hk => ?_, rfl, rfl,
    fun k _ => cell_blankFb k, rfl, rfl, rfl, rfl, rfl, rfl⟩
  · exact dif_pos h
  · exact dif_neg (Nat.not_lt.mpr h)
  · exact Vector.getElem_replicate _
  · exact Vector.getElem_replicate _

end Sys2Proof.Machine
end

section
/-! PROOFS. What a program can't observe (spec/10_state.md R37, R38): ST, the redraw flag, the fault
record, the outputs and the model's sticky bit. -/

namespace Sys2Proof.Machine

variable {s : State}

/-- The elements of the state that no instruction reads. -/
structure Hidden where
  st : Byte
  redraw : Bool
  fault : FaultRecord
  out : Outputs
  seen : Bool

/-- The state with other values of the elements that no instruction reads. -/
def State.withHidden (s : State) (h : Hidden) : State :=
  { s with st := h.st, redraw := h.redraw, fault := h.fault, out := h.out, illegalSeen := h.seen }

/-- The two results are next states alike but for the hidden elements, of which `h'` are the
second's: both raise with the same record, or neither touches the record it began with. -/
def AnswerAlike (r r' : Result) (record : FaultRecord) : Prop :=
  ∃ t h', r = .next t ∧ r' = .next (t.withHidden h') ∧
    (t.run = .ready → h'.fault = record) ∧ (t.run = .faulted → h'.fault = t.fault)

theorem answerAlike_raise {h : Hidden} (code : ErrorCode) (op faddr : Word) :
    AnswerAlike (.next (s.raise code op faddr)) (.next ((s.withHidden h).raise code op faddr))
      h.fault :=
  ⟨_, { h with fault := ⟨code, s.pc, op, faddr⟩, out := _ }, rfl, rfl,
    fun hr => absurd hr (by simp), fun _ => rfl⟩

theorem answerAlike_of_ready {h : Hidden} (hr : s.run = .ready) :
    AnswerAlike (.next s) (.next (s.withHidden h)) h.fault :=
  ⟨s, h, rfl, rfl, fun _ => rfl, fun hf => absurd hf (State.not_faulted_of_ready hr)⟩

/-- Every instruction acts alike from two states that differ in hidden elements: it reads none of
them, and writes of them ST under `Fx18` and the redraw flag under the display instructions. -/
theorem exec_withHidden (i : Instr) (h : Hidden) (hr : s.run = .ready) :
    AnswerAlike (exec i s) (exec i (s.withHidden h)) h.fault := by
  cases i with
  | ret ign =>
    rcases Nat.eq_zero_or_pos s.sp.val with hsp | hsp
    · rw [exec_ret_of_empty hsp, exec_ret_of_empty (s := s.withHidden h) hsp]
      exact answerAlike_raise ..
    · rw [exec_ret_of_used hsp, exec_ret_of_used (s := s.withHidden h) hsp]
      exact answerAlike_of_ready (h := h) hr
  | call nnn =>
    rcases Nat.lt_or_eq_of_le (Nat.le_of_lt_succ s.sp.isLt) with hsp | hsp
    · rw [exec_call_of_room hsp, exec_call_of_room (s := s.withHidden h) hsp]
      exact answerAlike_of_ready (h := h) hr
    · rw [exec_call_of_full hsp, exec_call_of_full (s := s.withHidden h) hsp]
      exact answerAlike_raise ..
  | drw x y n =>
    by_cases hi : n.val = 0 ∨ s.i.toNat + n.val - 1 ≤ 0xFFF
    · rw [exec_drw_of_fits hi, exec_drw_of_fits (s := s.withHidden h) hi]
      exact answerAlike_of_ready (h := { h with redraw := true }) hr
    · have hn : 0 < n.val := by omega
      have hi' : 0xFFF < s.i.toNat + n.val - 1 := by omega
      rw [exec_drw_past_end hn hi', exec_drw_past_end (s := s.withHidden h) hn hi']
      exact answerAlike_raise ..
  | ldBcd x =>
    rcases Nat.lt_or_ge 0xFFF (s.i.toNat + 2) with hi | hi
    · rw [exec_ldBcd_past_end hi, exec_ldBcd_past_end (s := s.withHidden h) hi]
      exact answerAlike_raise ..
    · rw [exec_ldBcd_of_fits hi, exec_ldBcd_of_fits (s := s.withHidden h) hi]
      exact answerAlike_of_ready (h := h) hr
  | dumpRegs x =>
    rcases Nat.lt_or_ge 0xFFF (s.i.toNat + x.val) with hi | hi
    · rw [exec_dumpRegs_past_end hi, exec_dumpRegs_past_end (s := s.withHidden h) hi]
      exact answerAlike_raise ..
    · rw [exec_dumpRegs_of_fits hi, exec_dumpRegs_of_fits (s := s.withHidden h) hi]
      exact answerAlike_of_ready (h := h) hr
  | loadRegs x =>
    rcases Nat.lt_or_ge 0xFFF (s.i.toNat + x.val) with hi | hi
    · rw [exec_loadRegs_past_end hi, exec_loadRegs_past_end (s := s.withHidden h) hi]
      exact answerAlike_raise ..
    · rw [exec_loadRegs_of_fits hi, exec_loadRegs_of_fits (s := s.withHidden h) hi]
      exact answerAlike_of_ready (h := h) hr
  | ldKey x =>
    cases hk : s.key with
    | none =>
      rw [exec_ldKey_of_no_key hk, exec_ldKey_of_no_key (s := s.withHidden h) hk]
      exact answerAlike_of_ready (h := h) hr
    | some k =>
      rw [exec_ldKey_of_key hk, exec_ldKey_of_key (s := s.withHidden h) hk]
      exact answerAlike_of_ready (h := h) hr
  | ldSt x => exact answerAlike_of_ready (h := { h with st := s.reg x }) hr
  | cls => exact answerAlike_of_ready (h := { h with redraw := true }) hr
  | _ => exact answerAlike_of_ready (h := h) hr

/-- Two READY states that differ in hidden elements step alike: they fetch the same word, and the
timer phase reads no hidden element but ST, which it writes alone. -/
theorem step_withHidden (h : Hidden) (hr : s.run = .ready) :
    AnswerAlike (step s) (step (s.withHidden h)) h.fault := by
  have hr' : (s.withHidden h).run = .ready := hr
  cases hf : s.fetch with
  | error a =>
    rw [step_of_fetch_error hr hf, step_of_fetch_error hr' hf]
    exact answerAlike_raise ..
  | ok op =>
    cases hd : decodeWord op with
    | error r =>
      rw [step_of_unknown hr hf hd, step_of_unknown hr' hf hd]
      exact answerAlike_of_ready hr (h := { h with
        st := tick h.st, out := ((s.withHidden h).unknownOpcode op).out, seen := true })
    | ok i =>
      rw [step_of_decode hr hf hd, step_of_decode hr' hf hd]
      obtain ⟨t, h', he, he', hready, hfaulted⟩ := exec_withHidden i h hr
      rw [he, he']
      cases ht : t.run with
      | ready =>
        rw [finishCycle_of_ready ht, finishCycle_of_ready (s := t.withHidden h') ht, ← hready ht]
        exact answerAlike_of_ready
          (h := { h' with st := tick h'.st, out := ((t.withHidden h').timers none).out }) ht
      | faulted =>
        exact ⟨t, h', finishCycle_of_faulted ht, finishCycle_of_faulted (s := t.withHidden h') ht,
          hready, hfaulted⟩

/-- Settles O53: the two steps are alike but for hidden elements, and a cycle that does not raise
keeps the record it began with. -/
theorem hiddenStateDoesNotLeak : Obligations.HiddenStateDoesNotLeak := by
  intro s st redraw fault out seen hr
  obtain ⟨t, h', ht, ht', hready, hfaulted⟩ := step_withHidden ⟨st, redraw, fault, out, seen⟩ hr
  refine ⟨t, t.withHidden h', ht, ht', fun htr => ⟨?_, hready htr⟩, hfaulted, rfl⟩
  cases readyStep_of_step hr ht with
  | fetchFails | raises => exact absurd htr (by simp)
  | unknown => rfl
  | completes _ _ _ _ hu => exact hu.fault_eq

end Sys2Proof.Machine
end

section
/-! PROOFS. Control transfer (spec/41_control.md R100 to R107) and the key skips
(spec/45_keys_timers.md R150, R151). -/

namespace Sys2Proof.Machine

variable {s : State} {x : RegIdx}

/-- A skip writes pc alone, by the condition it stands for (R88). -/
theorem next_skipIf {c : Bool} {p : Prop} [Decidable p] (h : c = true ↔ p) :
    (.next (s.skipIf c) : Result) = .next { s with pc := if p then s.pc + 4 else s.pc + 2 } := by
  simp only [State.skipIf, h]

/-- Settles O20: the two sides of an empty stack. -/
theorem returnPopsOrUnderflows : Obligations.ReturnPopsOrUnderflows := fun ign _ =>
  ⟨encode_and_mask (Laws.FixedBits.ret ign), fun h => ⟨_, exec_ret_of_used h, rfl, rfl, rfl⟩,
    exec_ret_of_empty⟩

/-- Settles O21: the jump writes pc alone. -/
theorem jumpSetsPc : Obligations.JumpSetsPc := fun nnn s =>
  ⟨encode_and_mask (Laws.FixedBits.jp nnn), s.setPc (addrWord nnn), rfl, toNat_addrWord nnn, rfl⟩

/-- An entry of the stack array after one entry is written (R25). -/
theorem getElem_set_stack {stack : Vector Word 16} {k j : Nat} (w : Word) (hk : k < 16)
    (hj : j < 16) : (stack.set k w hk)[j] = if j = k then w else stack[j] := by
  rw [Vector.getElem_set]
  by_cases h : k = j
  · rw [if_pos h, if_pos h.symm]
  · rw [if_neg h, if_neg (Ne.symm h)]

/-- Settles O22: the two sides of a full stack. -/
theorem callPushesOrOverflows : Obligations.CallPushesOrOverflows := fun nnn _ =>
  ⟨encode_and_mask (Laws.FixedBits.call nnn),
    fun h => ⟨_, exec_call_of_room h, rfl, fun _ hk => getElem_set_stack _ h hk,
      toNat_addrWord nnn, rfl⟩,
    exec_call_of_full⟩

/-- Settles O23: the return pops the entry that the call pushed. -/
theorem callThenReturn : Obligations.CallThenReturn := by
  intro nnn ign s h
  refine ⟨_, _, exec_call_of_room h, exec_ret_of_used (Nat.succ_pos _), ?_, rfl, ?_, rfl⟩
  · exact Vector.getElem_set_self _
  · exact fun k hk => Vector.getElem_set_ne h _ (Nat.ne_of_gt hk)

/-- Settles O24: a skip on the comparison, either way. -/
theorem skipOnImmediate : Obligations.SkipOnImmediate := fun x nn _ =>
  ⟨encode_and_mask (Laws.FixedBits.seImm x nn), encode_and_mask (Laws.FixedBits.sneImm x nn),
    next_skipIf beq_iff_eq, next_skipIf bne_iff_ne⟩

/-- Settles O25: the same skips, the second operand a register. -/
theorem skipOnRegisters : Obligations.SkipOnRegisters := fun x y ign _ =>
  ⟨encode_and_mask (Laws.FixedBits.seReg x y ign), encode_and_mask (Laws.FixedBits.sneReg x y ign),
    next_skipIf beq_iff_eq, next_skipIf bne_iff_ne⟩

/-- The target of `Bnnn` is the sum modulo 2^16 (R107). -/
theorem State.toNat_offsetTarget (op : Word) : (s.offsetTarget op).toNat
    = ((s.reg 0).toNat + (Config.bnnnOffset op).toNat) % 65536 := by
  have hbyte : (byteWord (s.reg 0)).toNat = (s.reg 0).toNat :=
    BitVec.toNat_setWidth_of_le (by decide)
  rw [State.offsetTarget, BitVec.toNat_add, hbyte]

/-- The conventional offset of `Bnnn` is its address field (D7). -/
theorem toNat_bnnnOffset (h : Config.ConventionalBnnn) (nnn : Addr) :
    (Config.bnnnOffset (encode (.jpV0 nnn))).toNat = nnn.toNat := by
  have hmask : (0x0FFF#16).toNat = 2 ^ 12 - 1 := rfl
  rw [h, BitVec.toNat_and, hmask, Nat.and_two_pow_sub_one_eq_mod, encode, toNat_ofNnn]
  omega

/-- Settles O26: the sum is below 2^16 under the conventional offset, so that nothing is reduced. -/
theorem jumpWithOffset : Obligations.JumpWithOffset := by
  refine fun nnn s => ⟨encode_and_mask (Laws.FixedBits.jpV0 nnn),
    s.setPc (s.offsetTarget (encode (.jpV0 nnn))), rfl, State.toNat_offsetTarget _, fun h => ?_,
    rfl⟩
  rw [State.setPc_pc, State.toNat_offsetTarget, toNat_bnnnOffset h]
  omega

/-- A key is pressed when one is latched and the whole register holds its code (R150). -/
theorem State.keyPressed_iff :
    s.keyPressed x = true ↔ ∃ k, s.key = some k ∧ k.toNat = (s.reg x).toNat := by
  unfold State.keyPressed
  cases s.key with
  | none => simp
  | some k =>
    rw [beq_iff_eq, ← BitVec.toNat_inj, toNat_setWidth_key]
    simp

/-- Settles O44: a skip on the pressed key, either way. -/
theorem keySkips : Obligations.KeySkips := by
  refine fun x s => ⟨encode_and_mask (Laws.FixedBits.skp x),
    encode_and_mask (Laws.FixedBits.sknp x), fun h => ?_, fun h => ?_⟩
  · have hk : s.keyPressed x = true := State.keyPressed_iff.mpr h
    exact ⟨by rw [exec, execSkp, hk]; rfl, by rw [exec, execSknp, hk]; rfl⟩
  · have hk : s.keyPressed x = false := Bool.eq_false_iff.mpr (State.keyPressed_iff.not.mpr h)
    exact ⟨by rw [exec, execSkp, hk]; rfl, by rw [exec, execSknp, hk]; rfl⟩

/-- Settles O5: the execute phase has no use of the ignored bits but in the record of a raise. -/
theorem ignoredBitsDoNothing : Obligations.IgnoredBitsDoNothing := fun _ _ _ _ _ _ =>
  ⟨rfl, rfl, rfl, rfl, rfl, fun h => (exec_ret_of_used h).trans (exec_ret_of_used h).symm⟩

end Sys2Proof.Machine
end

section
/-! PROOFS. The register file, the timers and I (spec/42_alu.md, spec/43_index_memory.md R130 to
R132, spec/45_keys_timers.md R152, R154, R155). -/

namespace Sys2Proof.Machine

variable {s : State} {x : RegIdx}

/-- What a register write and the advance leave: the register, every other one, pc and the frame. -/
theorem State.setReg_advance_spec (b : Byte) :
    (s.setReg x b).advance.reg x = b ∧ (∀ r, r ≠ x → (s.setReg x b).advance.reg r = s.reg r) ∧
    (s.setReg x b).advance.pc = s.pc + 2 ∧ (s.setReg x b).advance
      = { s with v := (s.setReg x b).advance.v, pc := (s.setReg x b).advance.pc } :=
  ⟨State.reg_setReg_same, fun _ hr => State.reg_setReg_of_ne hr, rfl, rfl⟩

/-- Settles O29: each of the four writes its bitwise result to Vx. -/
theorem assignAndLogic : Obligations.AssignAndLogic := by
  refine fun x y s => ⟨encode_and_mask (Laws.FixedBits.ldReg x y),
    encode_and_mask (Laws.FixedBits.orReg x y), encode_and_mask (Laws.FixedBits.andReg x y),
    encode_and_mask (Laws.FixedBits.xorReg x y), fun i f hi => ?_⟩
  suffices hexec : ∃ b : Byte, exec i s = .next (s.setReg x b).advance ∧
      ∀ k, k < 8 → b.getLsbD k = f ((s.reg x).getLsbD k) ((s.reg y).getLsbD k) by
    obtain ⟨b, he, hbits⟩ := hexec
    obtain ⟨hx, hframe⟩ := State.setReg_advance_spec (s := s) (x := x) b
    exact ⟨_, he, by rw [hx]; exact hbits, hframe⟩
  simp only [List.mem_cons, Prod.mk.injEq, List.not_mem_nil, or_false] at hi
  rcases hi with ⟨rfl, rfl⟩ | ⟨rfl, rfl⟩ | ⟨rfl, rfl⟩ | ⟨rfl, rfl⟩
  · exact ⟨_, rfl, fun _ _ => rfl⟩
  · exact ⟨_, rfl, fun _ _ => BitVec.getLsbD_or⟩
  · exact ⟨_, rfl, fun _ _ => BitVec.getLsbD_and⟩
  · exact ⟨_, rfl, fun _ _ => BitVec.getLsbD_xor⟩

/-- What a result with its flag and the advance leave: the result but in VF, the flag in VF, every
other register, pc and the frame (R122(e)). -/
theorem State.setResultFlag_advance_spec (b : Byte) (f : Bool) :
    (x ≠ 15 → (s.setResultFlag x b f).advance.reg x = b) ∧
    (s.setResultFlag x b f).advance.reg 15 = flagByte f ∧
    (∀ r, r ≠ x → r ≠ 15 → (s.setResultFlag x b f).advance.reg r = s.reg r) ∧
    (s.setResultFlag x b f).advance.pc = s.pc + 2 ∧ (s.setResultFlag x b f).advance
      = { s with v := (s.setResultFlag x b f).advance.v,
                 pc := (s.setResultFlag x b f).advance.pc } := by
  refine ⟨fun hx => ?_, ?_, fun r hrx hrF => ?_, rfl, rfl⟩
  · rw [State.advance_reg, State.reg_setResultFlag, if_neg hx, if_pos rfl]
  · rw [State.advance_reg, State.reg_setResultFlag, if_pos rfl]
  · rw [State.advance_reg, State.reg_setResultFlag, if_neg hrF, if_neg hrx]

/-- An instruction that writes a result and its flag, given the numbers they are. -/
theorem exists_of_setResultFlag {i : Instr} {b : Byte} {f : Bool} {value flag : Nat}
    (he : exec i s = .next (s.setResultFlag x b f).advance) (hb : b.toNat = value)
    (hf : (if f then 1 else 0) = flag) :
    ∃ t, exec i s = .next t ∧ (x ≠ 15 → (t.reg x).toNat = value) ∧ (t.reg 15).toNat = flag ∧
      (∀ r, r ≠ x → r ≠ 15 → t.reg r = s.reg r) ∧ t.pc = s.pc + 2 ∧
      t = { s with v := t.v, pc := t.pc } := by
  obtain ⟨hx, hF, hframe⟩ := State.setResultFlag_advance_spec (s := s) (x := x) b f
  exact ⟨_, he, fun h => by rw [hx h, hb], by rw [hF, toNat_flagByte, hf], hframe⟩

/-- Settles O30: the reduced sum and the carry out of the old operands. -/
theorem addRegistersCarry : Obligations.AddRegistersCarry := fun x y s =>
  ⟨encode_and_mask (Laws.FixedBits.addReg x y),
    exists_of_setResultFlag rfl (toNat_addWrap _ _) (by simp only [carry, decide_eq_true_iff])⟩

/-- The difference of two bytes is reduced modulo 256 (R117). -/
theorem toNat_subWrap (a b : Byte) : (subWrap a b).toNat = (a.toNat + 256 - b.toNat) % 256 := by
  rw [subWrap, BitVec.toNat_ofNat, Nat.mod_mod]

/-- Settles O31: the reduced difference and the borrow, in either order of the operands. -/
theorem subtractBorrow : Obligations.SubtractBorrow := by
  refine fun x y s => ⟨encode_and_mask (Laws.FixedBits.subReg x y),
    encode_and_mask (Laws.FixedBits.subnReg x y), fun i a b h => ?_⟩
  rcases h with ⟨rfl, rfl, rfl⟩ | ⟨rfl, rfl, rfl⟩
  · exact exists_of_setResultFlag rfl (toNat_subWrap _ _)
      (by simp only [notBorrow, decide_eq_true_iff])
  · exact exists_of_setResultFlag rfl (toNat_subWrap _ _)
      (by simp only [notBorrow, decide_eq_true_iff])

/-- The bit a right shift drops is the remainder by 2 (R118). -/
theorem droppedRight_eq (b : Byte) : (if droppedRight b then 1 else 0) = b.toNat % 2 := by
  revert b; decide

/-- The bit a left shift drops is the quotient by 128 (R120). -/
theorem droppedLeft_eq (b : Byte) : (if droppedLeft b then 1 else 0) = b.toNat / 128 := by
  revert b; decide

theorem toNat_shiftRightOne (b : Byte) : (shiftRightOne b).toNat = b.toNat / 2 := by
  rw [shiftRightOne, BitVec.toNat_ofNat]; omega

theorem toNat_shiftLeftOne (b : Byte) : (shiftLeftOne b).toNat = b.toNat * 2 % 256 := by
  rw [shiftLeftOne, BitVec.toNat_ofNat, Nat.mod_mod]

/-- Settles O32: the shifts read Vx (D8), and their flag is the dropped bit. -/
theorem shiftsDropIntoFlag : Obligations.ShiftsDropIntoFlag := fun x y s =>
  ⟨encode_and_mask (Laws.FixedBits.shr x y), encode_and_mask (Laws.FixedBits.shl x y),
    exists_of_setResultFlag rfl (toNat_shiftRightOne (s.reg x)) (droppedRight_eq (s.reg x)),
    exists_of_setResultFlag rfl (toNat_shiftLeftOne (s.reg x)) (droppedLeft_eq (s.reg x))⟩

/-- Settles O33: whatever byte is drawn, Vx gets it under the mask. -/
theorem randomUnderMask : Obligations.RandomUnderMask := fun x nn s =>
  ⟨encode_and_mask (Laws.FixedBits.rnd x nn), ⟨_, rfl⟩, fun r => ⟨_, rfl,
    fun k _ => by rw [State.reg_drawInto, if_pos rfl, BitVec.getLsbD_and],
    fun q hq => by rw [State.reg_drawInto, if_neg hq], rfl, rfl⟩⟩

/-- Settles O34: each of the three writes I alone, with the value of its operand form. -/
theorem indexRegisterWrites : Obligations.IndexRegisterWrites := by
  refine fun nnn x s => ⟨encode_and_mask (Laws.FixedBits.ldI nnn),
    encode_and_mask (Laws.FixedBits.addI x), encode_and_mask (Laws.FixedBits.ldFont x),
    fun i value h => ?_⟩
  rcases h with ⟨rfl, rfl⟩ | ⟨rfl, rfl⟩ | ⟨rfl, rfl⟩
  · exact ⟨_, rfl, toNat_addrWord nnn, rfl, rfl⟩
  · exact ⟨_, rfl, toNat_indexPlus _, rfl, rfl⟩
  · exact ⟨_, rfl, toNat_glyphAddr _, rfl, rfl⟩

/-- Settles O45: a register write, and two writes of a timer. -/
theorem timerRegisterMoves : Obligations.TimerRegisterMoves := fun x s =>
  ⟨encode_and_mask (Laws.FixedBits.ldFromDt x), encode_and_mask (Laws.FixedBits.ldDt x),
    encode_and_mask (Laws.FixedBits.ldSt x), ⟨_, rfl, State.setReg_advance_spec s.dt⟩, rfl, rfl⟩

end Sys2Proof.Machine
end

section
/-! PROOFS. The memory instructions (spec/43_index_memory.md R133 to R135) and the form of memory
(log 17). -/

namespace Sys2Proof.Machine

variable {s : State} {x : RegIdx}

/-- A byte inside a run of stores that fits the memory reads as the byte stored there (R44). -/
theorem Memory.read_writeBytes_inside (m : Memory) (a k : Nat) (bs : List Byte) (hk : k < bs.length)
    (hfit : a + bs.length ≤ 4096) : (m.writeBytes a bs).read (a + k) = bs[k] := by
  have hin : a ≤ a + k ∧ a + k < a + bs.length := by omega
  rw [Memory.read_writeBytes bs m a (a + k) hfit, dif_pos hin]
  simp only [Nat.add_sub_cancel_left]

/-- The digits of a byte are below 10, so each is stored as it is (R133). -/
theorem toNat_bcdDigits (b : Byte) :
    (bcdDigits b)[0].toNat = b.toNat / 100 ∧ (bcdDigits b)[1].toNat = b.toNat / 10 % 10 ∧
      (bcdDigits b)[2].toNat = b.toNat % 10 := by
  revert b; decide

/-- Settles O35: the run of the three digits. -/
theorem bcdDigitsStored : Obligations.BcdDigitsStored := by
  refine fun x s => ⟨encode_and_mask (Laws.FixedBits.ldBcd x),
    fun h => ⟨_, exec_ldBcd_of_fits h, ?_⟩⟩
  have hread (k : Nat) (hk : k < (bcdDigits (s.reg x)).length) :=
    Memory.read_writeBytes_inside s.mem s.indexAddr k (bcdDigits (s.reg x)) hk
      (show s.i.toNat + 3 ≤ 4096 by omega)
  obtain ⟨h0, h1, h2⟩ := toNat_bcdDigits (s.reg x)
  exact ⟨(congrArg BitVec.toNat (hread 0 _)).trans h0, (congrArg BitVec.toNat (hread 1 _)).trans h1,
    (congrArg BitVec.toNat (hread 2 _)).trans h2,
    fun a ha => Memory.read_writeBytes_outside _ _ _ _ ha, rfl, rfl⟩

/-- After a dump that fits, the byte at I + k is V[k] (R134). -/
theorem read_dumpRegs {k : Nat} (hk : k ≤ x.val) (hfit : s.i.toNat + x.val ≤ 0xFFF) :
    (s.mem.writeBytes s.i.toNat (s.regsUpTo x)).read (s.i.toNat + k) = s.reg ⟨k, by omega⟩ := by
  rw [Memory.read_writeBytes_inside _ _ _ _ (by rw [length_regsUpTo]; omega)
    (by rw [length_regsUpTo]; omega), getElem_regsUpTo]

/-- Settles O36: the run of the registers. -/
theorem registerDump : Obligations.RegisterDump := by
  refine fun x s => ⟨encode_and_mask (Laws.FixedBits.dumpRegs x), fun h =>
    ⟨_, exec_dumpRegs_of_fits h, fun r hr => read_dumpRegs hr h, fun a ha => ?_, rfl, rfl⟩⟩
  exact Memory.read_writeBytes_outside _ _ _ _ (by rw [length_regsUpTo]; exact ha)

/-- Settles O37: the registers a load fills, and those above. -/
theorem registerLoad : Obligations.RegisterLoad := by
  refine fun x s => ⟨encode_and_mask (Laws.FixedBits.loadRegs x), fun h =>
    ⟨_, exec_loadRegs_of_fits h, fun r hr => ?_, fun r hr => ?_, rfl, rfl⟩⟩
  · exact (getElem_fillRegs ..).trans (if_pos (Nat.lt_succ_of_le hr))
  · exact (getElem_fillRegs ..).trans (if_neg (Nat.not_lt.mpr hr))

/-- Settles O39: the two bytes that the fetch reads are bytes of the stored run. -/
theorem fetchSeesStoredBytes : Obligations.FetchSeesStoredBytes := by
  intro x s t k hk hfit he hpc
  rw [exec_dumpRegs_of_fits hfit] at he
  cases he
  refine State.fetch_eq_ok.mpr ⟨by omega, ?_⟩
  rw [hpc]
  exact congrArg₂ wordOfBytes (read_dumpRegs (Nat.le_of_succ_le hk) hfit).symm
    (read_dumpRegs hk hfit).symm

/-! ### Canonical memories -/

/-- Below its first address a canonical memory lists nothing. -/
theorem Memory.read_below {m : Memory} {lo a : Nat} (h : Memory.wfFrom lo m = true) (ha : a < lo) :
    m.read a = Memory.unlisted a := by
  induction m generalizing lo with
  | nil => rfl
  | cons c m ih =>
    obtain ⟨b, w⟩ := c
    obtain ⟨hlo, -, -, hm⟩ := Memory.wfFrom_cons.mp h
    rw [Memory.read, if_neg (by omega)]
    exact ih hm (by omega)

theorem Memory.read_head (a : Nat) (v : Byte) (m : Memory) : Memory.read ((a, v) :: m) a = v :=
  if_pos rfl

/-- A memory that reads as a canonical one does at its first entry lists something no later. -/
theorem Memory.not_wfFrom_succ {lo a : Nat} {v : Byte} {m m' : Memory}
    (h : Memory.wfFrom lo ((a, v) :: m) = true) (hread : Memory.read ((a, v) :: m) a = m'.read a) :
    ¬ Memory.wfFrom (a + 1) m' = true := by
  intro h'
  obtain ⟨-, -, hv, -⟩ := Memory.wfFrom_cons.mp h
  rw [Memory.read_head, Memory.read_below h' (Nat.lt_succ_self a)] at hread
  exact hv hread

/-- Canonical memories that read alike behind equal first addresses read alike in their tails. -/
theorem Memory.read_tail_eq {a c : Nat} {v w : Byte} {m m' : Memory}
    (h : Memory.wfFrom (a + 1) m = true) (h' : Memory.wfFrom (a + 1) m' = true)
    (hread : Memory.read ((a, v) :: m) c = Memory.read ((a, w) :: m') c) :
    m.read c = m'.read c := by
  by_cases hc : c = a
  · rw [Memory.read_below h (by omega), Memory.read_below h' (by omega)]
  · rwa [Memory.read, Memory.read, if_neg hc, if_neg hc] at hread

/-- Canonical memories that read alike are equal data. -/
theorem Memory.eq_of_read_eq {lo : Nat} {m m' : Memory} (h : Memory.wfFrom lo m = true)
    (h' : Memory.wfFrom lo m' = true) (hread : ∀ c, c < 4096 → m.read c = m'.read c) : m = m' := by
  induction m generalizing lo m' with
  | nil =>
    cases m' with
    | nil => rfl
    | cons e' m' =>
      obtain ⟨-, hb, -, -⟩ := Memory.wfFrom_cons.mp h'
      exact absurd rfl (Memory.not_wfFrom_succ h' (hread _ hb).symm)
  | cons e m ih =>
    obtain ⟨a, v⟩ := e
    obtain ⟨-, ha, hv, hm⟩ := Memory.wfFrom_cons.mp h
    cases m' with
    | nil => exact absurd rfl (Memory.not_wfFrom_succ h (hread _ ha))
    | cons e' m' =>
      obtain ⟨b, w⟩ := e'
      obtain ⟨-, hb, hw, hm'⟩ := Memory.wfFrom_cons.mp h'
      have hba : ¬ a < b := fun hlt => Memory.not_wfFrom_succ h (hread a ha)
        (Memory.wfFrom_cons.mpr ⟨hlt, hb, hw, hm'⟩)
      have hab : ¬ b < a := fun hlt => Memory.not_wfFrom_succ h' (hread b hb).symm
        (Memory.wfFrom_cons.mpr ⟨hlt, ha, hv, hm⟩)
      obtain rfl : a = b := by omega
      have hvw : v = w := by simpa only [Memory.read_head] using hread a ha
      rw [hvw, ih hm hm' fun c hc => Memory.read_tail_eq hm hm' (hread c hc)]

/-- Settles O40: by the entries of the one memory, each of which the other must start with too. -/
theorem canonicalMemoriesReadAlikeAreEqual : Obligations.CanonicalMemoriesReadAlikeAreEqual :=
  fun _ _ => Memory.eq_of_read_eq

end Sys2Proof.Machine
end

section
/-! PROOFS. The display (spec/44_display.md R140 to R143). -/

namespace Sys2Proof.Machine

variable {s : State} {x y : RegIdx} {n : RowCount}

/-- Settles O41: a blank framebuffer, and the frame of a framebuffer write and the advance. -/
theorem clearDisplay : Obligations.ClearDisplay := fun ign _ =>
  ⟨encode_and_mask (Laws.FixedBits.cls ign), _, rfl, fun k _ => cell_blankFb k, rfl, rfl, rfl⟩

/-- The bytes that `Dxyn` reads cover the cells that the statements speak of (R141, R142). -/
theorem covers_iff_spriteCovers {k : Nat} :
    covers (s.reg x).toNat (s.reg y).toNat (s.mem.readBytes s.indexAddr n.val) k
      ↔ spriteCovers s x y n k := by
  constructor
  · rintro ⟨row, hrow, col, hcol, hbit, rfl⟩
    rw [Memory.getElem_readBytes] at hbit
    exact ⟨row, col, by simpa using hrow, hcol, hbit, rfl⟩
  · rintro ⟨row, col, hrow, hcol, hbit, rfl⟩
    refine ⟨row, by simpa using hrow, col, hcol, ?_, rfl⟩
    rw [Memory.getElem_readBytes]
    exact hbit

/-- `Dxyn` flips the covered cells and no other (R141). -/
theorem cell_drawing {k : Nat} : cell (s.drawing x y n).fb k = true ↔
    (cell s.fb k = true ∧ ¬ spriteCovers s x y n k) ∨
      (cell s.fb k = false ∧ spriteCovers s x y n k) := by
  rw [State.drawing, cell_drawSprite _ _ _ _ (by rw [Memory.length_readBytes]; omega),
    covers_iff_spriteCovers]

/-- `Dxyn` collides exactly when it covers a lit cell (R141). -/
theorem collision_drawing : (s.drawing x y n).collision = true ↔
    ∃ k, k < 2048 ∧ cell s.fb k = true ∧ spriteCovers s x y n k := by
  rw [State.drawing, collision_drawSprite _ _ _ _ (by rw [Memory.length_readBytes]; omega)]
  constructor
  · rintro ⟨k, hcov, hlit⟩
    have hcov := covers_iff_spriteCovers.mp hcov
    obtain ⟨row, col, -, -, -, hk⟩ := id hcov
    exact ⟨k, by omega, hlit, hcov⟩
  · rintro ⟨k, -, hlit, hcov⟩
    exact ⟨k, covers_iff_spriteCovers.mpr hcov, hlit⟩

/-- The flag byte is 1 exactly when the flag is set (R122(f)). -/
theorem flagByte_eq_one {f : Bool} : flagByte f = 1 ↔ f = true := by
  cases f <;> decide

theorem flagByte_eq_zero {f : Bool} : flagByte f = 0 ↔ f = false := by
  cases f <;> decide

/-- VF after a draw is its collision flag, and every other register is as before (R141). -/
theorem State.reg_drawn (s : State) (x y : RegIdx) (n : RowCount) (r : RegIdx) :
    (s.drawn x y n).reg r = if r = 15 then flagByte (s.drawing x y n).collision else s.reg r :=
  State.reg_setReg (s.setFb (s.drawing x y n).fb) vF r _

/-- Settles O42: the drawing's cells and its collision, and the frame of a draw. -/
theorem drawFlipsCoveredCells : Obligations.DrawFlipsCoveredCells := by
  intro x y n s
  refine ⟨encode_and_mask (Laws.FixedBits.drw x y n), fun h => ⟨s.drawn x y n, exec_drw_of_fits h,
    fun k _ => cell_drawing.trans ?_, fun hc => ?_, fun hc => ?_, fun r hr => ?_, rfl, rfl, rfl⟩⟩
  · cases cell s.fb k <;> simp
  · rw [State.reg_drawn, if_pos rfl, flagByte_eq_one]
    exact collision_drawing.mpr hc
  · rw [State.reg_drawn, if_pos rfl, flagByte_eq_zero, Bool.eq_false_iff]
    exact collision_drawing.not.mpr hc
  · rw [State.reg_drawn, if_neg hr]

/-- A draw writes nothing that says where its sprite lies, if its coordinates are not in VF
(R205). -/
theorem spriteCovers_drawn (hx : x ≠ 15) (hy : y ≠ 15) {k : Nat} :
    spriteCovers (s.drawn x y n) x y n k ↔ spriteCovers s x y n k := by
  have hregx : (s.drawn x y n).reg x = s.reg x := by rw [State.reg_drawn, if_neg hx]
  have hregy : (s.drawn x y n).reg y = s.reg y := by rw [State.reg_drawn, if_neg hy]
  rw [spriteCovers, hregx, hregy]; rfl

/-- Settles O43: the second draw flips the cells that the first flipped, and the lit ones among them
are those the first found unlit. -/
theorem drawTwiceRestores : Obligations.DrawTwiceRestores := by
  intro x y n s hx hy h
  refine ⟨s.drawn x y n, (s.drawn x y n).drawn x y n, exec_drw_of_fits h,
    exec_drw_of_fits (s := s.drawn x y n) h, fb_ext fun k _ => Bool.eq_iff_iff.mpr ?_, ?_⟩
  · refine cell_drawing.trans ?_
    have hfirst : cell (s.drawn x y n).fb k = true ↔ _ := cell_drawing
    rw [spriteCovers_drawn hx hy, ← Bool.not_eq_true (cell (s.drawn x y n).fb k), hfirst]
    by_cases hcov : spriteCovers s x y n k <;> simp [hcov]
  · rw [State.reg_drawn, if_pos rfl, flagByte_eq_one, collision_drawing]
    refine exists_congr fun k => and_congr_right fun _ => ?_
    have hfirst : cell (s.drawn x y n).fb k = true ↔ _ := cell_drawing
    rw [spriteCovers_drawn hx hy, hfirst]
    by_cases hcov : spriteCovers s x y n k <;> simp [hcov]

end Sys2Proof.Machine
end
